-- ==== Sys2Proof/Word.lean ====
section
/-! DEFINITION. The word types of the block and its plainest arithmetic (`00_scope.md` R10, R11). -/

namespace Sys2Proof

/-- R11: "A byte is 8 bits." -/
abbrev Byte := BitVec 8

/-- R11: a command argument, a sector address and `usable_capacity` are 32 bits. -/
abbrev Word32 := BitVec 32

/-- R11: "Retry counters are 16 bits (enough for 65535)." -/
abbrev Count := BitVec 16

/-- What stands at the host port. The two constructors are the two formats of `spec/opcode_table.json`:
`HOSTOP` (an operation of R90 with its operands) and `FRAME48` (a command frame of R80 followed by the operands
that are no part of the frame). The bit layout of each stands in `Decode.lean`. -/
inductive PortWord where
  | hostop (w : BitVec 81)
  | frame (w : BitVec 57)
  deriving DecidableEq, Repr

end Sys2Proof
end

