-- ==== Sys2Proof/Config.lean ====
section
/-! DEFINITION. The configuration record of `00_scope.md` R7, its standard value, and the free values of the model.
The record is plain data; `State.cfg` holds one and no step writes it, so a statement over every state is a statement
over every configuration. -/

namespace Sys2Proof

/-- R7, D17: what negotiation does when step 5 is not answered "idle". -/
inductive V1Policy where
  | legacyBranch
  | stop
  deriving DecidableEq, Repr

/-- The parameters of R7, in the order of its table. -/
structure Config where
  filler : Byte
  tokenStart : Byte
  dataAccept : BitVec 4
  dataRespMask : Byte
  ifCondPattern : Word32
  hcsArg : Word32
  blocklenArg : Word32
  r1IdleBit : Byte
  r1Idle : Byte
  r1Accepted : Byte
  cmdRetry : Count
  opcondRetry : Count
  csdCmdRetry : Count
  csdTokenRetry : Count
  writeBusyRetry : Count
  csdLen : Nat
  respExtra : Byte
  blockBytes : Nat
  primeBytes : Nat
  xbufMax : Nat
  tOffMs : BitVec 16
  tOnMs : BitVec 16
  idxGoIdleState : BitVec 6
  idxSendOpCond : BitVec 6
  idxSendIfCond : BitVec 6
  idxSendCsd : BitVec 6
  idxSetBlocklen : BitVec 6
  idxWriteSingleBlock : BitVec 6
  idxReadOcr : BitVec 6
  idxCrcOnOff : BitVec 6
  crcTable : List (BitVec 6 × BitVec 7)
  crcDefault : BitVec 7
  v1Policy : V1Policy
  /-- `OCR_ACCEPT(r1, answered)` of R7 as plain data: the pairs (r1, answered) that pass. -/
  ocrAccept : List (Byte × Bool)
  deriving DecidableEq, Repr

/-- `T_OFF_MS`, OPEN in R7 and R142: a free value, no number is chosen (log entry 9). -/
opaque Config.openOffMs : BitVec 16

/-- `T_ON_MS`, OPEN in R7 and R142: a free value, no number is chosen (log entry 9). -/
opaque Config.openOnMs : BitVec 16

/-- The standard configuration: the value column of R7. -/
def Config.standard : Config where
  filler := 0xFF
  tokenStart := 0xFE
  dataAccept := 0x5
  dataRespMask := 0x0F
  ifCondPattern := 0x000001AA
  hcsArg := 0x40000000
  blocklenArg := 0x00000200
  r1IdleBit := 0x01
  r1Idle := 0x01
  r1Accepted := 0x00
  cmdRetry := 254
  opcondRetry := 200
  csdCmdRetry := 100
  csdTokenRetry := 30
  writeBusyRetry := 65535
  csdLen := 17
  respExtra := 4
  blockBytes := 512
  primeBytes := 10
  xbufMax := 4
  tOffMs := Config.openOffMs
  tOnMs := Config.openOnMs
  idxGoIdleState := 0
  idxSendOpCond := 1
  idxSendIfCond := 8
  idxSendCsd := 9
  idxSetBlocklen := 16
  idxWriteSingleBlock := 24
  idxReadOcr := 58
  idxCrcOnOff := 59
  crcTable := [(0, 0x4A), (8, 0x43)]
  crcDefault := 0x7F
  v1Policy := .legacyBranch
  ocrAccept := [(0x00, true)]

/-- R191, U20: the capacity of a version-1 record whose exponent is below 9 is "any 32-bit value; a model draws it,
and must not compute one". A free value, drawn as a function of the seven bytes the decode reads, so that R189 (purity)
keeps holding (log entry 8). -/
opaque Config.lowExponentCapacity : List Byte → Word32

/-- R33: an element that holds no value is never given one. A read of such an element, which no run makes, answers
this free value of its index (log entry 6). -/
opaque Config.unheldByte : Nat → Byte

/-- R255, U22: what the host reads at a result port while `busy = 1` is any value: a free value of the port's number
and of the number of events so far (log entry 7). -/
opaque Config.unsettledRead : Nat → Nat → Word32

/-- The side conditions on `FILLER` that D4 names: a silent device is then reported as a failure. -/
abbrev Config.fillerDistinct (c : Config) : Prop :=
  c.filler ≠ 0x00 ∧ c.filler ≠ c.tokenStart ∧ c.filler &&& c.r1IdleBit ≠ 0 ∧ c.filler ≠ c.r1Idle ∧
    c.filler ≠ c.r1Accepted ∧ c.filler &&& c.dataRespMask ≠ c.dataAccept.setWidth 8

end Sys2Proof
end

