-- ==== Sys2Proof/Machine/Operands.lean ====
section
/-! DEFINITION. The operand forms: check-value selection (R82), the frame bytes (R81), the classes of `extra` (R88),
the address scaling of a write (R66, R201), the reading of a response token (R92) and of the other bytes the block
examines (R86, R146, R180, R181). Pure functions of the configuration and the operands. -/

namespace Sys2Proof.Machine

/-- R82 `CrcLookup(idx)`: "selected by a static lookup from command index to a precomputed check value". -/
def crcLookup (c : Config) (idx : BitVec 6) : BitVec 7 :=
  (c.crcTable.lookup idx).getD c.crcDefault

/-- R81 `f[0] <- 0b01 ++ idx[5:0]`. -/
def frameHead (idx : BitVec 6) : Byte := 0b01#2 ++ idx

/-- R81 `f[5] <- CrcLookup(idx)[6:0] ++ 0b1`. -/
def frameTail (c : Config) (idx : BitVec 6) : Byte := crcLookup c idx ++ 1#1

/-- R61, R81: the six bytes of the CommandFrame, `f[0]` first, the argument big-endian. -/
def buildFrame (c : Config) (idx : BitVec 6) (arg : Word32) : Vector Byte 6 :=
  #v[frameHead idx, arg.extractLsb' 24 8, arg.extractLsb' 16 8, arg.extractLsb' 8 8, arg.extractLsb' 0 8,
    frameTail c idx]

/-- R88: `extra` "is an 8-bit two's-complement integer"; a negative value leaves the bus asserted. -/
abbrev extraNegative (extra : Byte) : Prop := extra.toInt < 0

/-- R88: the number of extra bytes, N for a positive `extra = N` and 0 otherwise. -/
def extraCount (extra : Byte) : Nat := extra.toInt.toNat

/-- R89, R121: "`CMD` with `extra > XBUF_MAX` is not started". -/
abbrev extraRefused (c : Config) (extra : Byte) : Prop := c.xbufMax < extraCount extra

/-- R84: the operand `extra = -1` of `SEND_CSD` and `WRITE_SINGLE_BLOCK`. -/
def extraMinusOne : Byte := 0xFF

/-- R66, R201: `arg = (sector << 9)[31:0]` for `STANDARD`, `arg = sector` for `HIGH`. -/
def writeArg (high : Bool) (sector : Word32) : Word32 :=
  if high then sector else sector <<< 9

/-- R92 (a): the idle bit of the response token. -/
def idleBit (c : Config) (r1 : Byte) : Bool := r1 &&& c.r1IdleBit != 0

/-- R147, R150: ready is `answered = 1 and (r1 & R1_IDLE_BIT) = 0`. -/
def isReady (c : Config) (r1 : Byte) (answered : Bool) : Bool := answered && !idleBit c r1

/-- R145: the pass condition of step 4, `answered = 1 and (r1 & R1_IDLE_BIT) != 0`. -/
def isIdleAnswer (c : Config) (r1 : Byte) (answered : Bool) : Bool := answered && idleBit c r1

/-- R146: the probe is answered "exactly 'idle'". -/
def isExactlyIdle (c : Config) (r1 : Byte) (answered : Bool) : Bool := answered && r1 == c.r1Idle

/-- R152, R203: accepted is `answered = 1 and r1 = R1_ACCEPTED`. -/
def isAccepted (c : Config) (r1 : Byte) (answered : Bool) : Bool := answered && r1 == c.r1Accepted

/-- R148: `OCR_ACCEPT(r1, answered)`. -/
def ocrAccepts (c : Config) (r1 : Byte) (answered : Bool) : Bool := c.ocrAccept.contains (r1, answered)

/-- R146, R62: the echo test, "`xbuf[2]` = `0x01` and `xbuf[3]` = `0xAA`, which is the big-endian image of the low half
of" the pattern; whole bytes (D17). -/
def echoMatches (c : Config) (x2 x3 : Byte) : Bool :=
  x2 == c.ifCondPattern.extractLsb' 8 8 && x3 == c.ifCondPattern.extractLsb' 0 8

/-- R180 `OcrPoweredUp(x0) = x0[7]`. -/
def ocrPoweredUp (x0 : Byte) : Bool := x0.getLsbD 7

/-- R181 `OcrHighCapacity(x0) = x0[6]`. -/
def ocrHighCapacity (x0 : Byte) : Bool := x0.getLsbD 6

/-- R205: the data response is accepted iff `(b & DATA_RESP_MASK) = DATA_ACCEPT`. -/
def dataAccepted (c : Config) (b : Byte) : Bool := b &&& c.dataRespMask == c.dataAccept.setWidth 8

/-- R206: one busy poll succeeds iff the input is not `0x00`. -/
def busyEnded (b : Byte) : Bool := b != 0x00

end Sys2Proof.Machine
end

