-- ==== Sys2Proof/Syntax.lean ====
section
/-! DEFINITION. The instructions: one constructor per row of `spec/opcode_table.json`. -/

namespace Sys2Proof

/-- One constructor per row of the opcode table. The first ten are its `FRAME48` rows, the last four its `HOSTOP` rows.
`crc` is a row's seven check-value bits `c`; the framer selects the check value itself (R82) and does not read them.
`dbg` is the debug selection of R119. -/
inductive Instr where
  /-- `GO_IDLE_STATE` (R145). -/
  | goIdleState (dbg : Bool)
  /-- `SEND_IF_COND` (R146). -/
  | sendIfCond (dbg : Bool)
  /-- `SEND_OP_COND.HCS` (R147). -/
  | sendOpCondHcs (crc : BitVec 7) (dbg : Bool)
  /-- `SEND_OP_COND.LEGACY` (R150). -/
  | sendOpCondLegacy (crc : BitVec 7) (dbg : Bool)
  /-- `READ_OCR` (R148). -/
  | readOcr (crc : BitVec 7) (dbg : Bool)
  /-- `SEND_CSD` (R152). -/
  | sendCsd (crc : BitVec 7) (dbg : Bool)
  /-- `CRC_ON_OFF` (R156). -/
  | crcOnOff (crc : BitVec 7) (dbg : Bool)
  /-- `SET_BLOCKLEN` (R157). -/
  | setBlocklen (crc : BitVec 7) (dbg : Bool)
  /-- `WRITE_SINGLE_BLOCK` (R202): `arg` is the byte or block address of R66. -/
  | writeSingleBlock (arg : Word32) (crc : BitVec 7) (dbg : Bool)
  /-- `FRAME` (R81): any index and argument, with the operand `extra` of R88. -/
  | frame (idx : BitVec 6) (arg : Word32) (crc : BitVec 7) (extra : Byte) (dbg : Bool)
  /-- `NOP` (R89, `op = 00`). -/
  | nop
  /-- `CMD` (R110, `op = 01`). -/
  | cmd (idx : BitVec 6) (arg : Word32) (extra : Byte) (dbg : Bool)
  /-- `INIT` (R140, `op = 10`). -/
  | init (dbg : Bool)
  /-- `WRITE` (R200, `op = 11`); the payload is read from memory. -/
  | write (sector : Word32) (dbg : Bool)
  deriving DecidableEq, Repr

end Sys2Proof
end

