-- ==== Sys2Proof/WellFormed.lean ====
section
/-! DEFINITION. Which terms of `Instr` the opcode table admits. A register-width operand is bounded by its type;
two checks are left: a row's check-value bits are those of the lookup (R82: `c = CrcLookup(idx)`), and the generic row
`FRAME` does not spell a frame that another row of the table names. -/

namespace Sys2Proof

/-- The rows of the table before `FRAME` claim this frame (index, argument and check value) for themselves. -/
def namedRow (idx : BitVec 6) (arg : Word32) (crc : BitVec 7) : Bool :=
  (idx == 0 && arg == 0 && crc == 0x4A) || (idx == 8 && arg == 0x1AA && crc == 0x43)
    || (idx == 1 && (arg == 0x40000000 || arg == 0)) || (idx == 58 && arg == 0) || (idx == 9 && arg == 0)
    || (idx == 59 && arg == 0) || (idx == 16 && arg == 0x200) || idx == 24

/-- Check 1: the check-value bits of a frame row are the lookup's (R82, with the table's standard configuration). -/
def crcRight (idx : BitVec 6) (crc : BitVec 7) : Bool := crc == Machine.crcLookup Config.standard idx

/-- The well-formed instructions. -/
def Instr.wellFormed : Instr → Bool
  | .goIdleState _ => true
  | .sendIfCond _ => true
  | .sendOpCondHcs crc _ => crcRight 1 crc
  | .sendOpCondLegacy crc _ => crcRight 1 crc
  | .readOcr crc _ => crcRight 58 crc
  | .sendCsd crc _ => crcRight 9 crc
  | .crcOnOff crc _ => crcRight 59 crc
  | .setBlocklen crc _ => crcRight 16 crc
  | .writeSingleBlock _ crc _ => crcRight 24 crc
  | .frame idx arg crc extra _ => crcRight idx crc && !(namedRow idx arg crc && extra == 0)
  | .nop => true
  | .cmd _ _ _ _ => true
  | .init _ => true
  | .write _ _ => true

end Sys2Proof
end

