-- ==== Sys2Proof/Decode.lean ====
section
/-! DEFINITION. The decoder of what stands at the host port, total on every word and rejecting by name, and after it
the encoder. A `frame` word holds the 48-bit frame of R80 in bits 47:0, numbered as the opcode table numbers it (bit 47
is sent first), the operand `extra` of R88 in bits 55:48 and `dbg` in bit 56. A `hostop` word holds `op[1:0]` of R90 in
bits 1:0 and the operands of R90 above it, in the order of D2: `idx` 7:2, `arg` 39:8, `extra` 47:40, `dbg` 48,
`sector` 80:49. The places of the operands above the table's own bits are the model's (log entry 1). -/

namespace Sys2Proof

/-- Why a word is no instruction. R89: "Start bit, transmit marker, stop bit: Constants; the block cannot send a frame
with other values." -/
inductive DecodeError where
  /-- bit 47 is 1 (R80: the start bit is 0). -/
  | startBit
  /-- bit 46 is 0 (R80: the transmit marker is 1). -/
  | transmitMarker
  /-- bit 0 is 0 (R80: the stop bit is 1). -/
  | stopBit
  deriving DecidableEq, Repr

/-- The row of the table that a frame's fields name: the rows of fixed index and argument first, then
`WRITE_SINGLE_BLOCK`, then `FRAME`. A non-zero operand `extra` is an operand of `FRAME` only; every other row has the
`extra` of its own table entry. -/
def selectRow (idx : BitVec 6) (arg : Word32) (crc : BitVec 7) (extra : Byte) (dbg : Bool) : Instr :=
  if extra ≠ 0 then .frame idx arg crc extra dbg
  else if idx = 0 ∧ arg = 0 ∧ crc = 0x4A then .goIdleState dbg
  else if idx = 8 ∧ arg = 0x1AA ∧ crc = 0x43 then .sendIfCond dbg
  else if idx = 1 ∧ arg = 0x40000000 then .sendOpCondHcs crc dbg
  else if idx = 1 ∧ arg = 0 then .sendOpCondLegacy crc dbg
  else if idx = 58 ∧ arg = 0 then .readOcr crc dbg
  else if idx = 9 ∧ arg = 0 then .sendCsd crc dbg
  else if idx = 59 ∧ arg = 0 then .crcOnOff crc dbg
  else if idx = 16 ∧ arg = 0x200 then .setBlocklen crc dbg
  else if idx = 24 then .writeSingleBlock arg crc dbg
  else .frame idx arg crc extra dbg

/-- The `FRAME48` rows (R80 for the positions of the fields). -/
def decodeFrame (w : BitVec 57) : Except DecodeError Instr :=
  if w.getLsbD 47 then .error .startBit
  else if !w.getLsbD 46 then .error .transmitMarker
  else if !w.getLsbD 0 then .error .stopBit
  else .ok (selectRow (w.extractLsb' 40 6) (w.extractLsb' 8 32) (w.extractLsb' 1 7) (w.extractLsb' 48 8) (w.getLsbD 56))

/-- The `HOSTOP` rows (R90: `op` 00 none, 01 `CMD`, 10 `INIT`, 11 `WRITE`). -/
def decodeHostop (w : BitVec 81) : Instr :=
  if w.extractLsb' 0 2 = 0b00 then .nop
  else if w.extractLsb' 0 2 = 0b01 then
    .cmd (w.extractLsb' 2 6) (w.extractLsb' 8 32) (w.extractLsb' 40 8) (w.getLsbD 48)
  else if w.extractLsb' 0 2 = 0b10 then .init (w.getLsbD 48)
  else .write (w.extractLsb' 49 32) (w.getLsbD 48)

/-- The decoder. -/
def decode : PortWord → Except DecodeError Instr
  | .hostop w => .ok (decodeHostop w)
  | .frame w => decodeFrame w

/-- R80, R81: the 48-bit frame `F`, from the most significant field down: start bit 0, transmit marker 1, index,
argument, check value, stop bit 1. -/
def frame48 (idx : BitVec 6) (arg : Word32) (crc : BitVec 7) : BitVec 48 :=
  0#1 ++ 1#1 ++ idx ++ arg ++ crc ++ 1#1

/-- A frame with the operands that stand above it. -/
def frameWord (idx : BitVec 6) (arg : Word32) (crc : BitVec 7) (extra : Byte) (dbg : Bool) : PortWord :=
  .frame (BitVec.ofBool dbg ++ extra ++ frame48 idx arg crc)

/-- An operation with the operands that stand above it. -/
def hostopWord (op : BitVec 2) (idx : BitVec 6) (arg : Word32) (extra : Byte) (dbg : Bool) (sector : Word32) :
    PortWord :=
  .hostop (sector ++ BitVec.ofBool dbg ++ extra ++ arg ++ idx ++ op)

/-- The encoder: the word of an instruction, from the "encoding" column of the opcode table (R84, R85 for the indices
and arguments of the rows). -/
def encode : Instr → PortWord
  | .goIdleState dbg => frameWord 0 0 0x4A 0 dbg
  | .sendIfCond dbg => frameWord 8 0x1AA 0x43 0 dbg
  | .sendOpCondHcs crc dbg => frameWord 1 0x40000000 crc 0 dbg
  | .sendOpCondLegacy crc dbg => frameWord 1 0 crc 0 dbg
  | .readOcr crc dbg => frameWord 58 0 crc 0 dbg
  | .sendCsd crc dbg => frameWord 9 0 crc 0 dbg
  | .crcOnOff crc dbg => frameWord 59 0 crc 0 dbg
  | .setBlocklen crc dbg => frameWord 16 0x200 crc 0 dbg
  | .writeSingleBlock arg crc dbg => frameWord 24 arg crc 0 dbg
  | .frame idx arg crc extra dbg => frameWord idx arg crc extra dbg
  | .nop => hostopWord 0b00 0 0 0 false 0
  | .cmd idx arg extra dbg => hostopWord 0b01 idx arg extra dbg 0
  | .init dbg => hostopWord 0b10 0 0 0 dbg 0
  | .write sector dbg => hostopWord 0b11 0 0 0 dbg sector

/-- The six bytes of a frame as the wire carries them, "transmitted most-significant-byte first" (R80), read as `F`. -/
def frameOfBytes (f0 f1 f2 f3 f4 f5 : Byte) : BitVec 48 := f0 ++ f1 ++ f2 ++ f3 ++ f4 ++ f5

/-- The port word of an instruction numbered as `spec/opcode_table.json` numbers it: the table's `HOSTOP` rows have 2
bits (one byte), its `FRAME48` rows 48; every operand bit above `nbits` is 0. -/
def tableWord (nbits w : Nat) : PortWord :=
  if nbits ≤ 8 then .hostop (BitVec.ofNat 81 (w % 2 ^ nbits)) else .frame (BitVec.ofNat 57 (w % 2 ^ nbits))

/-- The instruction the decoder reads from an instruction of the opcode table whose bits are `w`. -/
def decodeTableWord (nbits w : Nat) : Option Instr :=
  match decode (tableWord nbits w) with
  | .ok i => some i
  | .error _ => none

end Sys2Proof
end

