-- ==== Sys2Proof/Machine/State.lean ====
section
/-! DEFINITION. Everything the spec gives the block (`10_state.md` R20), the environment's answers and the host's
inputs as plain data, the reasons a step can stop, and the state after reset (R34). -/

namespace Sys2Proof.Machine

/-- Why the model stops with a fault. -/
inductive Fault where
  /-- Raised by `hostRead` only: the host reads a result place that holds no value. R33: "reading it is a fault of the
  model (the model refuses the read), never a zero"; R237 and U21 name the same stop. Safe: no value is given. -/
  | noValue
  deriving DecidableEq, Repr

/-- Why the model refuses. -/
inductive Refusal where
  /-- Raised by an arm of `exec` only: the instruction has no meaning yet. Safe. -/
  | notModelled (mnemonic : String)
  /-- Raised by `step`: a frame word whose bit 47 is 1 is no instruction (R80, R89: "the block cannot send a frame with
  other values"). Safe. -/
  | frameStartBit
  /-- Raised by `step`: a frame word whose bit 46 is 0 is no instruction (R80, R89). Safe. -/
  | frameTransmitMarker
  /-- Raised by `step`: a frame word whose bit 0 is 0 is no instruction (R80, R89). Safe. -/
  | frameStopBit
  deriving DecidableEq, Repr

/-- The framer's phases (R21: `F_ASSERT`, `F_FRAME(i)`, `F_POLL`, `F_EXTRA(i)`, `F_CLEAN`, `F_RELEASE`). -/
inductive FPhase where
  | assert
  | frame (i : Fin 6)
  | poll
  | extra (i : Nat)
  | clean
  | release
  deriving DecidableEq, Repr

/-- Who called the framer: the host (operation `CMD`), or the phase of negotiation or of the writer that issues the
framed command (R21: "`st` is the pair of the caller's phase and the framer's phase"). `N11_HOUSEKEEP` issues two. -/
inductive Caller where
  | host
  | n4Idle
  | n5IfCond
  | n6OpcondHc
  | n6Ocr
  | n7OpcondLegacy
  | n9CsdCmd
  | n11CrcOnOff
  | n11SetBlocklen
  | wCmd
  deriving DecidableEq, Repr

/-- The sequencer phase register `st` (R21). `framer c f` is the pair of a caller's phase and a framer phase; `judge c`
is the caller's phase when the framer has returned to it. A phase that makes several collaborator calls has one value
for each call, and one that polls has a value for the judgement of the byte, which may issue a call of its own (log
entry 3). -/
inductive Phase where
  | idle
  | framer (c : Caller) (f : FPhase)
  | judge (c : Caller)
  | n1PowerOff
  | n1WaitOff
  | n1PowerOn
  | n1WaitOn
  | n2Present
  | n2WriteProt
  | n3Rate
  | n3Prime (i : Nat)
  | n3Assert
  | n8Release
  | n8Rate
  | n8Assert
  | n9Release
  | n9Reassert
  | n9CsdToken
  | n9CsdJudge
  | n9CsdData (i : Nat)
  | n9CsdClean
  | n9CsdRelease
  | n10Decode
  | n12Ready
  | wToken
  | wData (i : Nat)
  | wCheck (i : Fin 2)
  | wResp
  | wRespJudge
  | wBusy
  | wBusyJudge
  | wClean
  | wRelease
  deriving DecidableEq, Repr

/-- R23: `cap_class`, `STANDARD` (0) or `HIGH` (1). -/
inductive CapClass where
  | standard
  | high
  deriving DecidableEq, Repr

/-- R24: the eleven fault flags, the `ok` flag and the diagnostic counter. -/
structure StatusRecord where
  noCard : Bool
  writeProtected : Bool
  idleFailed : Bool
  opcondTimeout : Bool
  ocrTimeout : Bool
  powerupNotConfirmed : Bool
  csdTimeout : Bool
  csdTokenMissing : Bool
  writeCmdRejected : Bool
  writeDataRejected : Bool
  writeTimeout : Bool
  ok : Bool
  timeoutCount : Count
  deriving DecidableEq, Repr

/-- R23: the DeviceHandle `dev`, "the persistent result of negotiation". -/
structure DeviceHandle where
  capClass : CapClass
  legacy : Bool
  usableCapacity : Word32
  status : StatusRecord
  deriving DecidableEq, Repr

/-- R8: the clock rates the block selects. -/
inductive Rate where
  | slow
  | medium
  deriving DecidableEq, Repr

/-- R8: the event alphabet. -/
inductive Event where
  | assert
  | release
  | xfer (out inp : Byte) (dbg : Bool)
  | rate (r : Rate)
  | pwrOff
  | pwrOn
  | sensePresent (b : Bool)
  | senseWp (b : Bool)
  | delay (ms : BitVec 16)
  deriving DecidableEq, Repr

/-- R9, R71: the answers a collaborator will give, in order: `script` first, then `rest` for ever (R91: "when it runs
out, `FILLER` is returned"). -/
structure Answers (α : Type) where
  script : List α
  rest : α
  deriving DecidableEq, Repr

/-- The environment: the inputs of every `XFER`, of every `SENSE_PRESENT` and of every `SENSE_WP` still to come. -/
structure Env where
  xfer : Answers Byte
  present : Answers Bool
  writeProt : Answers Bool
  deriving DecidableEq, Repr

/-- What the host can do to the block: activate its reset (R250), pulse `start` with a word at the port (R90), or
change a byte of its own payload buffer (R65, R263). -/
inductive HostEvent where
  | reset
  | start (w : PortWord)
  | poke (addr : BitVec 9) (b : Byte)
  deriving DecidableEq, Repr

/-- An input of the host that lands `after` further steps of the sequencer (at once when the block is idle). -/
structure Arrival where
  after : Nat
  event : HostEvent
  deriving DecidableEq, Repr

/-- R31: the payload buffer, the only memory the block reads: the listed bytes, by rising address, none of them equal
to what an unlisted address reads as. -/
abbrev Memory := List Host.Cell

/-- R34: the defaults of the StatusRecord. -/
def StatusRecord.defaults : StatusRecord :=
  ⟨false, false, false, false, false, false, false, false, false, false, false, false, 0⟩

/-- R34, R141: the defaults of `dev`. -/
def DeviceHandle.defaults : DeviceHandle := ⟨.standard, false, 0, StatusRecord.defaults⟩

end Sys2Proof.Machine

namespace Sys2Proof.Machine

structure State where
  /-- R21: the sequencer phase. -/
  st : Phase
  /-- R22: the operation in progress. -/
  op : BitVec 2
  /-- R22: command index of the frame being sent. -/
  idx : BitVec 6
  /-- R22: command argument. -/
  arg : Word32
  /-- R22: `expected_extra_bytes`. -/
  extra : Byte
  /-- R22: debug selection of the operation in progress. -/
  dbg : Bool
  /-- R22: the CommandFrame being transmitted. -/
  f : Vector Byte 6
  /-- R22: the framer's poll count. -/
  n : Count
  /-- R22: the retry counter of negotiation and of the writer. -/
  cnt : Count
  /-- R22: the response token byte of the last framed command. -/
  r1 : Byte
  /-- R22: "did the device ever answer" for the last framed command. -/
  answered : Bool
  /-- R22: result of the step 5 pattern check. -/
  echo : Bool
  /-- R22: sector address operand of `WRITE`. -/
  sector : Word32
  /-- R22: the byte last returned by a poll `Xfer` of negotiation or of the writer. -/
  b : Byte
  /-- R23: the DeviceHandle. -/
  dev : DeviceHandle
  /-- R27: the elements of the extra-byte buffer that hold a value, `xbuf[0]` first. -/
  xbuf : List Byte
  /-- R28: the elements of the CapacityRecord that hold a value, `csd[0]` first. -/
  csd : List Byte
  /-- R29: the bus-assertion register. -/
  busAsserted : Bool
  /-- R30: the one-step pulse when an operation returns. -/
  done : Bool
  /-- R30: the last operation returned success. -/
  resOk : Bool
  /-- R30: the next writable address. -/
  nextAddr : Word32
  /-- R33: whether `r1` and `answered` hold a value, that is whether a framed command has run since reset. -/
  framed : Bool
  /-- R31: the host's payload buffer. -/
  mem : Memory
  /-- R7: the configuration, a parameter that no step writes. -/
  cfg : Config
  /-- R9: the environment's answers still to come. -/
  env : Env
  /-- R90, R250, R263: the host's inputs still to come, the next one first. -/
  inputs : List Arrival
  /-- R8: the events since reset, the latest first. -/
  trace : List Event
  deriving DecidableEq, Repr

/-- An environment in which nothing is attached (R71: "an absent or silent device is the environment that always
answers `FILLER`"; log entry 4). -/
def Env.nothingAttached (c : Config) : Env := ⟨⟨[], c.filler⟩, ⟨[], false⟩, ⟨[], false⟩⟩

/-- R34, R250: the block right after reset. The registers that R34 leaves without a value are 0 (log entry 5). -/
def State.reset : State where
  st := .idle
  op := 0
  idx := 0
  arg := 0
  extra := 0
  dbg := false
  f := #v[0, 0, 0, 0, 0, 0]
  n := 0
  cnt := 0
  r1 := 0
  answered := false
  echo := false
  sector := 0
  b := 0
  dev := DeviceHandle.defaults
  xbuf := []
  csd := []
  busAsserted := false
  done := false
  resOk := false
  nextAddr := 0
  framed := false
  mem := []
  cfg := Config.standard
  env := Env.nothingAttached Config.standard
  inputs := []
  trace := []

end Sys2Proof.Machine
end

