-- ==== Sys2Proof/Machine/Flags.lean ====
section
/-! DEFINITION. The flags of the StatusRecord (R24), the faults of R220 with their codes, and the words a host reads. -/

namespace Sys2Proof.Machine

/-- R220: the eleven faults, in the order of their codes. -/
inductive FaultFlag where
  | noCard
  | writeProtected
  | idleFailed
  | opcondTimeout
  | ocrTimeout
  | powerupNotConfirmed
  | csdTimeout
  | csdTokenMissing
  | writeCmdRejected
  | writeDataRejected
  | writeTimeout
  deriving DecidableEq, Repr

/-- R220: "The code of a fault is the bit position of its flag in `status_word`". -/
def FaultFlag.code : FaultFlag → Nat
  | .noCard => 0
  | .writeProtected => 1
  | .idleFailed => 2
  | .opcondTimeout => 3
  | .ocrTimeout => 4
  | .powerupNotConfirmed => 5
  | .csdTimeout => 6
  | .csdTokenMissing => 7
  | .writeCmdRejected => 8
  | .writeDataRejected => 9
  | .writeTimeout => 10

/-- R225 (2): the four loop-exhaustion faults, which set `timeout_count <- 0`. -/
def FaultFlag.isExhaustion : FaultFlag → Bool
  | .opcondTimeout | .csdTimeout | .csdTokenMissing | .writeTimeout => true
  | .noCard | .writeProtected | .idleFailed | .ocrTimeout | .powerupNotConfirmed | .writeCmdRejected
  | .writeDataRejected => false

/-- R225 (3): the faults that issue one `Release()`. -/
def FaultFlag.releasesBus : FaultFlag → Bool
  | .csdTimeout | .csdTokenMissing | .writeCmdRejected | .writeDataRejected | .writeTimeout => true
  | .noCard | .writeProtected | .idleFailed | .opcondTimeout | .ocrTimeout | .powerupNotConfirmed => false

/-- R225 (4): the faults of `WRITE`, which also write `next_addr <- 0`. -/
def FaultFlag.isWriteFault : FaultFlag → Bool
  | .writeCmdRejected | .writeDataRejected | .writeTimeout => true
  | .noCard | .writeProtected | .idleFailed | .opcondTimeout | .ocrTimeout | .powerupNotConfirmed | .csdTimeout
  | .csdTokenMissing => false

/-- R10 `raise <Flag>`: "sets the named fault flag of the StatusRecord to 1". -/
def StatusRecord.raise (r : StatusRecord) : FaultFlag → StatusRecord
  | .noCard => { r with noCard := true }
  | .writeProtected => { r with writeProtected := true }
  | .idleFailed => { r with idleFailed := true }
  | .opcondTimeout => { r with opcondTimeout := true }
  | .ocrTimeout => { r with ocrTimeout := true }
  | .powerupNotConfirmed => { r with powerupNotConfirmed := true }
  | .csdTimeout => { r with csdTimeout := true }
  | .csdTokenMissing => { r with csdTokenMissing := true }
  | .writeCmdRejected => { r with writeCmdRejected := true }
  | .writeDataRejected => { r with writeDataRejected := true }
  | .writeTimeout => { r with writeTimeout := true }

/-- The flag a fault sets. -/
def StatusRecord.flag (r : StatusRecord) : FaultFlag → Bool
  | .noCard => r.noCard
  | .writeProtected => r.writeProtected
  | .idleFailed => r.idleFailed
  | .opcondTimeout => r.opcondTimeout
  | .ocrTimeout => r.ocrTimeout
  | .powerupNotConfirmed => r.powerupNotConfirmed
  | .csdTimeout => r.csdTimeout
  | .csdTokenMissing => r.csdTokenMissing
  | .writeCmdRejected => r.writeCmdRejected
  | .writeDataRejected => r.writeDataRejected
  | .writeTimeout => r.writeTimeout

/-- R24: the flags read as one word `status_word[11:0]`, bit 0 `no_card`, bit 11 `ok`. -/
def StatusRecord.word (r : StatusRecord) : BitVec 12 :=
  BitVec.ofBool r.ok ++ BitVec.ofBool r.writeTimeout ++ BitVec.ofBool r.writeDataRejected
    ++ BitVec.ofBool r.writeCmdRejected ++ BitVec.ofBool r.csdTokenMissing ++ BitVec.ofBool r.csdTimeout
    ++ BitVec.ofBool r.powerupNotConfirmed ++ BitVec.ofBool r.ocrTimeout ++ BitVec.ofBool r.opcondTimeout
    ++ BitVec.ofBool r.idleFailed ++ BitVec.ofBool r.writeProtected ++ BitVec.ofBool r.noCard

/-- R25: how many of bits 0 to 7 (the flags of a negotiation attempt) are 1. -/
def StatusRecord.fatalCount (r : StatusRecord) : Nat :=
  r.noCard.toNat + r.writeProtected.toNat + r.idleFailed.toNat + r.opcondTimeout.toNat + r.ocrTimeout.toNat
    + r.powerupNotConfirmed.toNat + r.csdTimeout.toNat + r.csdTokenMissing.toNat

/-- R26: write `timeout_count`. -/
def StatusRecord.withTimeoutCount (r : StatusRecord) (c : Count) : StatusRecord := { r with timeoutCount := c }

/-- R158: write the `ok` flag. -/
def StatusRecord.withOk (r : StatusRecord) (b : Bool) : StatusRecord := { r with ok := b }

/-- Write the StatusRecord of the handle. -/
def DeviceHandle.withStatus (d : DeviceHandle) (r : StatusRecord) : DeviceHandle := { d with status := r }

/-- Write the legacy flag of the handle. -/
def DeviceHandle.withLegacy (d : DeviceHandle) (b : Bool) : DeviceHandle := { d with legacy := b }

/-- Write the capacity class of the handle. -/
def DeviceHandle.withCapClass (d : DeviceHandle) (c : CapClass) : DeviceHandle := { d with capClass := c }

/-- Write the usable capacity of the handle. -/
def DeviceHandle.withCapacity (d : DeviceHandle) (c : Word32) : DeviceHandle := { d with usableCapacity := c }

/-- R23: the one-bit encoding of `cap_class`. -/
def CapClass.isHigh : CapClass → Bool
  | .standard => false
  | .high => true

/-- R149: `dev.cap_class <- (xbuf[0][6] = 1) ? HIGH : STANDARD`. -/
def CapClass.ofBit (b : Bool) : CapClass := if b then .high else .standard

end Sys2Proof.Machine
end

