-- ==== Sys2Proof/Machine/Ops.lean ====
section
/-! DEFINITION. The named operations over memory, the environment and the registers: the payload buffer (R65), the
collaborator calls of R8 and R10, fault entry (R225; there is no return from a fault, R227), the returns of the three
operations, the one-deep framer call (R21), and the host's reads (R33, R35, R255). -/

namespace Sys2Proof.Machine

/-- What a byte of the payload buffer that nothing has written reads as (log entry 10). -/
def unlistedByte : Byte := 0x00

/-- The canonical form of the payload buffer: addresses strictly rising, within the 9-bit index of R31, and no entry
equal to what an unlisted address reads as. -/
abbrev Memory.wf (m : Memory) : Prop :=
  m.Pairwise (fun x y => x.1 < y.1) ∧ ∀ x ∈ m, x.1 < 512 ∧ x.2 ≠ unlistedByte

/-- The byte at a key. -/
def Memory.get : Memory → Nat → Byte
  | [], _ => unlistedByte
  | (k, v) :: rest, a => if a = k then v else Memory.get rest a

/-- Write the byte at a key, keeping the canonical form. -/
def Memory.put : Memory → Nat → Byte → Memory
  | [], a, b => if b = unlistedByte then [] else [(a, b)]
  | (k, v) :: rest, a, b =>
    if a < k then if b = unlistedByte then (k, v) :: rest else (a, b) :: (k, v) :: rest
    else if a = k then if b = unlistedByte then rest else (a, b) :: rest
    else (k, v) :: Memory.put rest a b

/-- R65 `MemRead(i, 1)`: byte `i` of the payload buffer; "It has no side effect and raises nothing." -/
def memRead (s : State) (i : BitVec 9) : Byte := s.mem.get i.toNat

/-- R31, R35: the host owns the payload buffer and writes it; the block never does. -/
def hostPoke (s : State) (i : BitVec 9) (b : Byte) : State := { s with mem := s.mem.put i.toNat b }

/-- The next answer of a collaborator (R9: "a free input of the step that asks for it"). -/
def Answers.peek {α : Type} (a : Answers α) : α := a.script.headD a.rest

/-- The answers after the next one. -/
def Answers.pop {α : Type} (a : Answers α) : Answers α := { a with script := a.script.tail }

/-- R8: append an event to the trace. -/
def State.emit (s : State) (e : Event) : State := { s with trace := e :: s.trace }

/-- R10 `Assert()`: "also does `bus_asserted <- 1`"; recorded on every call, also when redundant (R8, R29). -/
def State.assertBus (s : State) : State := { s.emit .assert with busAsserted := true }

/-- R10 `Release()`: "also does `bus_asserted <- 0`". -/
def State.releaseBus (s : State) : State := { s.emit .release with busAsserted := false }

/-- R64: the byte that the next `Xfer` will return. -/
def State.inByte (s : State) : Byte := s.env.xfer.peek

/-- R10, R64 `Xfer(b)`: one call of the byte transceiver, with the tag `dbg` of R119. -/
def State.xfer (s : State) (out : Byte) : State :=
  { s.emit (.xfer out s.inByte s.dbg) with env := { s.env with xfer := s.env.xfer.pop } }

/-- R10 `Rate(r)`. -/
def State.setRate (s : State) (r : Rate) : State := s.emit (.rate r)

/-- R10 `PowerOff()`. -/
def State.powerOff (s : State) : State := s.emit .pwrOff

/-- R10 `PowerOn()`. -/
def State.powerOn (s : State) : State := s.emit .pwrOn

/-- R10 `Delay(n)`. -/
def State.delay (s : State) (ms : BitVec 16) : State := s.emit (.delay ms)

/-- The bit that the next `Present()` will return. -/
def State.presentBit (s : State) : Bool := s.env.present.peek

/-- R10 `Present()`. -/
def State.sensePresent (s : State) : State :=
  { s.emit (.sensePresent s.presentBit) with env := { s.env with present := s.env.present.pop } }

/-- The bit that the next `WriteProt()` will return. -/
def State.writeProtBit (s : State) : Bool := s.env.writeProt.peek

/-- R10 `WriteProt()`. -/
def State.senseWriteProt (s : State) : State :=
  { s.emit (.senseWp s.writeProtBit) with env := { s.env with writeProt := s.env.writeProt.pop } }

/-- R10: advance the sequencer phase. -/
def State.goto (s : State) (p : Phase) : State := { s with st := p }

/-- R30: `busy` is `st != IDLE`. -/
def State.busy (s : State) : Bool := s.st != .idle

/-- Write the framer's poll count. -/
def State.setN (s : State) (c : Count) : State := { s with n := c }

/-- Write the retry counter. -/
def State.setCnt (s : State) (c : Count) : State := { s with cnt := c }

/-- Write the response token pair. -/
def State.setToken (s : State) (r1 : Byte) (answered : Bool) : State :=
  { s with r1 := r1, answered := answered, framed := true }

/-- Write the byte register of the polls. -/
def State.setB (s : State) (x : Byte) : State := { s with b := x }

/-- Write the command frame. -/
def State.setF (s : State) (f : Vector Byte 6) : State := { s with f := f }

/-- Write the extra-byte buffer. -/
def State.setXbuf (s : State) (l : List Byte) : State := { s with xbuf := l }

/-- Write the CapacityRecord. -/
def State.setCsd (s : State) (l : List Byte) : State := { s with csd := l }

/-- Write the result of the pattern check. -/
def State.setEcho (s : State) (e : Bool) : State := { s with echo := e }

/-- Write the sector operand. -/
def State.setSector (s : State) (a : Word32) : State := { s with sector := a }

/-- Write `next_addr`. -/
def State.setNextAddr (s : State) (a : Word32) : State := { s with nextAddr := a }

/-- Write the DeviceHandle. -/
def State.setDev (s : State) (d : DeviceHandle) : State := { s with dev := d }

/-- A start accepted (R90): the operation and the debug selection are latched; no `done` pulse stands. -/
def State.startOp (s : State) (op : BitVec 2) (dbg : Bool) : State :=
  { s with op := op, dbg := dbg, done := false }

/-- A poll of negotiation or of the writer: `b <- Xfer(FILLER)`. -/
def State.pollByte (s : State) : State := (s.xfer s.cfg.filler).setB s.inByte

/-- Change the StatusRecord. -/
def State.withStatus (s : State) (r : StatusRecord) : State := s.setDev (s.dev.withStatus r)

/-- R26: `dev.status.timeout_count <- c`. -/
def State.setTimeoutCount (s : State) (c : Count) : State :=
  s.withStatus (s.dev.status.withTimeoutCount c)

/-- R10 `return`: "the sequencer goes to `IDLE`"; `res_ok` is written and `done` pulses (R30). -/
def State.finish (s : State) (ok : Bool) : State := { s with resOk := ok, done := true, st := .idle }

/-- R225 (1), (2): the flag of the fault is set, and `timeout_count <- 0` for a loop exhaustion. -/
def faultStatus (e : FaultFlag) (r : StatusRecord) : StatusRecord :=
  (r.raise e).withTimeoutCount (if e.isExhaustion then 0 else r.timeoutCount)

/-- R225, fault entry: (1) and (2) the StatusRecord; (3) one `Release()` where the fault issues one; (4) the result
registers; (5) `st <- IDLE` and the `done` pulse. No other register changes and there is no handler (R226): at a step 9
fault `cap_class` keeps the class recorded before, as R225 says, against the prose of R201 and R267 (log entry 25). -/
def takeFault (e : FaultFlag) (s : State) : State :=
  { s with
    dev := s.dev.withStatus (faultStatus e s.dev.status)
    trace := if e.releasesBus then .release :: s.trace else s.trace
    busAsserted := s.busAsserted && !e.releasesBus
    resOk := false
    nextAddr := if e.isWriteFault then 0 else s.nextAddr
    st := .idle
    done := true }

/-- A failed attempt of a bounded loop (R120, D13): `cnt <- cnt - 1`; at 0 the fault, otherwise the next attempt. -/
def failedAttempt (e : FaultFlag) (again : State → State) (s : State) : State :=
  if s.cnt - 1 = 0 then takeFault e (s.setCnt (s.cnt - 1)) else again (s.setCnt (s.cnt - 1))

/-- R140: "Every `return` also does `res_ok <- dev.status.ok` and `st <- IDLE`." -/
def returnInit (s : State) : State := s.finish s.dev.status.ok

/-- R110: "when started by the host also `res_ok <- answered`". -/
def returnCmd (s : State) : State := s.finish s.answered

/-- R207: `res_ok <- 1`, `next_addr <- (sector + 1)[31:0]`. -/
def returnWrite (s : State) : State := (s.finish true).setNextAddr (s.sector + 1)

/-- The framer call of R110 from a caller's phase: the operands go to `idx`, `arg`, `extra` (R35) and the sequencer to
the framer's first phase. -/
def callFramer (c : Caller) (idx : BitVec 6) (arg : Word32) (extra : Byte) (s : State) : State :=
  { s with idx := idx, arg := arg, extra := extra, st := .framer c .assert }

/-- An element of a buffer; one that holds no value gives a free value (R33, log entry 6). -/
def heldAt (buf : List Byte) (i : Nat) : Byte := (buf[i]?).getD (Config.unheldByte i)

/-- R34, R250, R251: the reset input. The block's registers take their reset values and the trace is empty; what is not
the block's (the configuration, the environment, the host's buffer and inputs) stays. -/
def resetBlock (s : State) : State :=
  { State.reset with cfg := s.cfg, env := s.env, mem := s.mem, inputs := s.inputs }

/-- R35: what the host may read. -/
inductive HostReg where
  | busy
  | done
  | busAsserted
  | resOk
  | nextAddr
  | r1
  | answered
  | xbuf (i : Nat)
  | capClass
  | legacy
  | usableCapacity
  | statusWord
  | timeoutCount
  deriving DecidableEq, Repr

/-- The number of a host-readable place, an argument of the free value of a read while busy. -/
def HostReg.number : HostReg → Nat
  | .busy => 0
  | .done => 1
  | .busAsserted => 2
  | .resOk => 3
  | .nextAddr => 4
  | .r1 => 5
  | .answered => 6
  | .capClass => 7
  | .legacy => 8
  | .usableCapacity => 9
  | .statusWord => 10
  | .timeoutCount => 11
  | .xbuf i => 12 + i

/-- A bit as the host reads it. -/
def bitWord (b : Bool) : Word32 := (BitVec.ofBool b).setWidth 32

/-- A read of a place that may hold no value: R33, R237, U21 and D31 make a read of one that holds none a
fault. -/
def readHeld : Option Word32 → Host.Outcome Word32 Fault Refusal
  | some w => .next w
  | none => .fault .noValue

/-- The token registers as the host reads them hold a value once a framed command has run (R33, U21). -/
def State.ifFramed (s : State) (w : Word32) : Option Word32 := if s.framed then some w else none

/-- What a result place holds while the block is idle. -/
def settledRead (s : State) : HostReg → Host.Outcome Word32 Fault Refusal
  | .busy => .next (bitWord s.busy)
  | .done => .next (bitWord s.done)
  | .busAsserted => .next (bitWord s.busAsserted)
  | .resOk => .next (bitWord s.resOk)
  | .nextAddr => .next s.nextAddr
  | .r1 => readHeld (s.ifFramed (s.r1.setWidth 32))
  | .answered => readHeld (s.ifFramed (bitWord s.answered))
  | .xbuf i => readHeld ((s.xbuf[i]?).map (·.setWidth 32))
  | .capClass => .next (bitWord s.dev.capClass.isHigh)
  | .legacy => .next (bitWord s.dev.legacy)
  | .usableCapacity => .next s.dev.usableCapacity
  | .statusWord => .next (s.dev.status.word.setWidth 32)
  | .timeoutCount => .next (s.dev.status.timeoutCount.setWidth 32)

/-- A read by the host (R35). `busy`, `done` and `bus_asserted` are always current; R255: "Results are valid only when
`busy = 0`", and until then any other place reads as a free value (U22). -/
def hostRead (s : State) (r : HostReg) : Host.Outcome Word32 Fault Refusal :=
  if s.busy && !(r == .busy || r == .done || r == .busAsserted) then
    .next (Config.unsettledRead r.number s.trace.length)
  else settledRead s r

end Sys2Proof.Machine
end

