-- ==== Sys2Proof/Machine/Capacity.lean ====
section
/-! DEFINITION. The capacity decode of `42_capacity_decode.md` R182 to R192: a pure function of the record (R189). -/

namespace Sys2Proof.Machine

/-- R183: `size[21:0] <- csd[7][5:0] ++ csd[8][7:0] ++ csd[9][7:0]`. -/
def v2Size (c7 c8 c9 : Byte) : BitVec 22 := c7.extractLsb' 0 6 ++ c8 ++ c9

/-- R183 `DecodeV2`: `((zext_33(size) + 1) * 1024 - 1)[31:0]`. -/
def decodeV2 (c7 c8 c9 : Byte) : Word32 :=
  (((v2Size c7 c8 c9).setWidth 33 + 1) * 1024 - 1).setWidth 32

/-- R184: `size[11:0] <- csd[6][1:0] ++ csd[7][7:0] ++ csd[8][7:6]`. -/
def v1Size (c6 c7 c8 : Byte) : BitVec 12 := c6.extractLsb' 0 2 ++ c7 ++ c8.extractLsb' 6 2

/-- R185: `mult[2:0] <- csd[9][1:0] ++ csd[10][7]`. -/
def v1Mult (c9 c10 : Byte) : BitVec 3 := c9.extractLsb' 0 2 ++ c10.extractLsb' 7 1

/-- R186: `exp[3:0] <- csd[5][3:0]`. -/
def v1Exp (c5 : Byte) : BitVec 4 := c5.extractLsb' 0 4

/-- R187: the defined case, `((zext_32(size) + 1) << (mult + 2 + exp - 9)) - 1`. -/
def v1Formula (size : BitVec 12) (mult : BitVec 3) (exp : BitVec 4) : Word32 :=
  ((size.setWidth 32 + 1) <<< (mult.toNat + 2 + exp.toNat - 9)) - 1

/-- R187, R191 `DecodeV1`: for an exponent below 9 the result is a free value of the bytes the decode reads. -/
def decodeV1 (c0 c5 c6 c7 c8 c9 c10 : Byte) : Word32 :=
  if 9 ≤ (v1Exp c5).toNat then v1Formula (v1Size c6 c7 c8) (v1Mult c9 c10) (v1Exp c5)
  else Config.lowExponentCapacity [c0, c5, c6, c7, c8, c9, c10]

/-- R182: "If the top two bits of byte 0 are non-zero → record is version-2-style." -/
def isVersion2 (c0 : Byte) : Bool := c0.extractLsb' 6 2 != 0

/-- R182 `DecodeCapacity(csd)`. -/
def decodeCapacity (csd : List Byte) : Word32 :=
  if isVersion2 (heldAt csd 0) then decodeV2 (heldAt csd 7) (heldAt csd 8) (heldAt csd 9)
  else decodeV1 (heldAt csd 0) (heldAt csd 5) (heldAt csd 6) (heldAt csd 7) (heldAt csd 8) (heldAt csd 9)
    (heldAt csd 10)

end Sys2Proof.Machine
end

