-- ==== Sys2Proof/Machine/Framer.lean ====
section
/-! DEFINITION. The Command Framer, `TransmitCommand` of `40_command_framer.md` R110, one collaborator call a phase.
It reads the operands `idx`, `arg`, `extra` and `dbg`, and reads and writes nothing of `dev` (R123). -/

namespace Sys2Proof.Machine

/-- R110, R113: after the sixth frame byte, `answered <- 0; r1 <- FILLER; n <- 0`. No extra byte of this call has
arrived yet, so no element of `xbuf` holds a value (R27). -/
def beginPoll (c : Caller) (s : State) : State :=
  (((s.setToken s.cfg.filler false).setN 0).setXbuf []).goto (.framer c .poll)

/-- R116, R117: the tail for `extra >= 0` is the cleanup transfer and `Release()`; for `extra < 0` there is none. -/
def framerTail (c : Caller) (s : State) : State :=
  if extraNegative s.extra then s.goto (.judge c) else s.goto (.framer c .clean)

/-- The phase in which extra byte `i` is read, or the cleanup after the last (R115). -/
def extraPhase (c : Caller) (extra : Byte) (i : Nat) : Phase :=
  if i < extraCount extra then .framer c (.extra i) else .framer c .clean

/-- R115: extra bytes are read only "after an answered token". -/
def afterPoll (c : Caller) (s : State) : State :=
  if s.answered ∧ 0 < extraCount s.extra then s.goto (.framer c (.extra 0)) else framerTail c s

/-- `F_ASSERT` (R111, R112): `Assert()`, and the frame is built. -/
def framerAssert (c : Caller) (s : State) : State :=
  (s.assertBus.setF (buildFrame s.cfg s.idx s.arg)).goto (.framer c (.frame 0))

/-- `F_FRAME(i)` (R112): `Xfer(f[i])`, the input discarded (R72). -/
def framerFrame (c : Caller) (i : Fin 6) (s : State) : State :=
  if i = 5 then beginPoll c (s.xfer s.f[5])
  else (s.xfer s.f[i]).goto (.framer c (.frame (i + 1)))

/-- `F_POLL` (R113, R114, R120): at most `CMD_RETRY` transfers; the first input that differs from `FILLER` is the
response token. -/
def framerPoll (c : Caller) (s : State) : State :=
  if s.n = s.cfg.cmdRetry then afterPoll c s
  else if s.inByte = s.cfg.filler then (s.xfer s.cfg.filler).setN (s.n + 1)
  else afterPoll c (((s.xfer s.cfg.filler).setN (s.n + 1)).setToken s.inByte true)

/-- `F_EXTRA(i)` (R115): `xbuf[i] <- Xfer(FILLER)`. The buffer is as long as the call asks; above `XBUF_MAX`, where R27
gives no element, that is the model's choice (log entry 24). -/
def framerExtra (c : Caller) (i : Nat) (s : State) : State :=
  ((s.xfer s.cfg.filler).setXbuf (s.xbuf ++ [s.inByte])).goto (extraPhase c s.extra (i + 1))

/-- `F_CLEAN` (R116): "8 filler clock cycles", one transfer, input discarded. -/
def framerClean (c : Caller) (s : State) : State := (s.xfer s.cfg.filler).goto (.framer c .release)

/-- `F_RELEASE` (R116): `Release()`, and the framer returns to its caller. -/
def framerRelease (c : Caller) (s : State) : State := s.releaseBus.goto (.judge c)

/-- One step of the framer. -/
def framerTick (c : Caller) (p : FPhase) (s : State) : State :=
  match p with
  | .assert => framerAssert c s
  | .frame i => framerFrame c i s
  | .poll => framerPoll c s
  | .extra i => framerExtra c i s
  | .clean => framerClean c s
  | .release => framerRelease c s

end Sys2Proof.Machine
end

