-- ==== Sys2Proof/Machine/Negotiation.lean ====
section
/-! DEFINITION. The Negotiation State Machine, `Negotiate` of `41_negotiation.md` R140, one collaborator call or one
register update a phase. -/

namespace Sys2Proof.Machine

/-- Step 4 (R145): frame `GO_IDLE_STATE` with argument 0 and `extra = 0`. -/
def enterGoIdle (s : State) : State := callFramer .n4Idle s.cfg.idxGoIdleState 0 0 s

/-- Step 5 (R146): frame `SEND_IF_COND` with the check pattern and 4 extra bytes. A `RESP_EXTRA` above `XBUF_MAX` is
not refused here (log entry 24). -/
def enterIfCond (s : State) : State :=
  callFramer .n5IfCond s.cfg.idxSendIfCond s.cfg.ifCondPattern s.cfg.respExtra s

/-- Step 6 (R147): one attempt, `SEND_OP_COND` with `HCS_ARG`. -/
def enterOpcondHc (s : State) : State := callFramer .n6OpcondHc s.cfg.idxSendOpCond s.cfg.hcsArg 0 s

/-- Step 6 (R148): `READ_OCR` with argument 0 and 4 extra bytes. A `RESP_EXTRA` above `XBUF_MAX` is not refused here
(log entry 24). -/
def enterReadOcr (s : State) : State := callFramer .n6Ocr s.cfg.idxReadOcr 0 s.cfg.respExtra s

/-- Step 7 (R150): one attempt, `SEND_OP_COND` with argument 0. -/
def enterOpcondLegacy (s : State) : State := callFramer .n7OpcondLegacy s.cfg.idxSendOpCond 0 0 s

/-- Step 9 (R152): one attempt, `SEND_CSD` with argument 0 and `extra = -1`. -/
def enterSendCsd (s : State) : State := callFramer .n9CsdCmd s.cfg.idxSendCsd 0 extraMinusOne s

/-- Step 11 (R156): `CRC_ON_OFF` with argument 0. -/
def enterCrcOnOff (s : State) : State := callFramer .n11CrcOnOff s.cfg.idxCrcOnOff 0 0 s

/-- Step 11 (R157): `SET_BLOCKLEN` with `BLOCKLEN_ARG`. -/
def enterSetBlocklen (s : State) : State :=
  callFramer .n11SetBlocklen s.cfg.idxSetBlocklen s.cfg.blocklenArg 0 s

/-- R140: `cnt <- OPCOND_RETRY`, then `echo` selects step 6 or step 7. -/
def enterOpcond (s : State) : State :=
  if s.echo then enterOpcondHc (s.setCnt s.cfg.opcondRetry) else enterOpcondLegacy (s.setCnt s.cfg.opcondRetry)

/-- R145: the judgement of step 4. -/
def judgeGoIdle (s : State) : State :=
  if isIdleAnswer s.cfg s.r1 s.answered then enterIfCond s else takeFault .idleFailed s

/-- R146: `echo <- e`; "if echo = 0 then dev.legacy <- 1". -/
def recordEcho (e : Bool) (s : State) : State :=
  (s.setEcho e).setDev (s.dev.withLegacy (s.dev.legacy || !e))

/-- R146: the judgement of step 5, its cases (b) and (c). -/
def judgeEcho (s : State) : State :=
  enterOpcond (recordEcho (echoMatches s.cfg (heldAt s.xbuf 2) (heldAt s.xbuf 3)) s)

/-- R146: the judgement of step 5, its case (a): `dev.legacy <- 1; echo <- 0`, and under `V1_POLICY = stop` a return. -/
def judgeLegacy (s : State) : State :=
  match s.cfg.v1Policy with
  | .stop => returnInit (recordEcho false s)
  | .legacyBranch => enterOpcond (recordEcho false s)

/-- R146: the judgement of step 5. -/
def judgeIfCond (s : State) : State :=
  if isExactlyIdle s.cfg s.r1 s.answered then judgeEcho s else judgeLegacy s

/-- R147: the judgement of one attempt of step 6; on ready `timeout_count <- cnt` and the OCR is read. -/
def judgeOpcondHc (s : State) : State :=
  if isReady s.cfg s.r1 s.answered then enterReadOcr (s.setTimeoutCount s.cnt)
  else failedAttempt .opcondTimeout enterOpcondHc s

/-- R148, R149: the judgement of the OCR read. -/
def judgeReadOcr (s : State) : State :=
  if !ocrAccepts s.cfg s.r1 s.answered then takeFault .ocrTimeout s
  else if !ocrPoweredUp (heldAt s.xbuf 0) then takeFault .powerupNotConfirmed s
  else (s.setDev (s.dev.withCapClass (CapClass.ofBit (ocrHighCapacity (heldAt s.xbuf 0))))).goto .n8Release

/-- R150: the judgement of one attempt of step 7; on ready `timeout_count <- cnt` and the class is `STANDARD`. -/
def judgeOpcondLegacy (s : State) : State :=
  if isReady s.cfg s.r1 s.answered then
    ((s.setTimeoutCount s.cnt).setDev ((s.setTimeoutCount s.cnt).dev.withCapClass .standard)).goto .n8Release
  else failedAttempt .opcondTimeout enterOpcondLegacy s

/-- R152: the judgement of one attempt of `SEND_CSD`; a failed attempt is followed by `Release(); Assert()`. -/
def judgeSendCsd (s : State) : State :=
  if isAccepted s.cfg s.r1 s.answered then
    ((s.setTimeoutCount s.cnt).setCnt s.cfg.csdTokenRetry).goto .n9CsdToken
  else failedAttempt .csdTimeout (fun t => t.goto .n9Release) s

/-- The phase in which record byte `i` is read, or the cleanup when the record is complete (R154). -/
def csdPhase (c : Config) (i : Nat) : Phase := if i < c.csdLen then .n9CsdData i else .n9CsdClean

/-- R153: the judgement of one poll for the data-start token; on success `timeout_count <- cnt` and the record begins. -/
def judgeCsdToken (s : State) : State :=
  if s.b = s.cfg.tokenStart then ((s.setTimeoutCount s.cnt).setCsd []).goto (csdPhase s.cfg 0)
  else failedAttempt .csdTokenMissing (fun t => t.goto .n9CsdToken) s

/-- R153: one poll for the data-start token; its byte is judged in the step after it. -/
def pollCsdToken (s : State) : State := s.pollByte.goto .n9CsdJudge

/-- R154: `csd[i] <- Xfer(FILLER)`. -/
def readCsdByte (i : Nat) (s : State) : State :=
  ((s.xfer s.cfg.filler).setCsd (s.csd ++ [s.inByte])).goto (csdPhase s.cfg (i + 1))

/-- R155, R28: `dev.usable_capacity <- DecodeCapacity(csd)`; the record "is not retained". -/
def storeCapacity (s : State) : State := (s.setDev (s.dev.withCapacity (decodeCapacity s.csd))).setCsd []

/-- Step 10 (R155), then step 11. -/
def decodeRecord (s : State) : State := enterCrcOnOff (storeCapacity s)

/-- R158: `dev.status.ok <- 1; Release(); return`. -/
def markReady (s : State) : State :=
  returnInit (s.withStatus (s.dev.status.withOk true)).releaseBus

/-- R143: presence. -/
def checkPresent (s : State) : State :=
  if s.presentBit then s.sensePresent.goto .n2WriteProt else takeFault .noCard s.sensePresent

/-- R143: write protection. -/
def checkWriteProt (s : State) : State :=
  if s.writeProtBit then takeFault .writeProtected s.senseWriteProt else s.senseWriteProt.goto .n3Rate

/-- The phase in which priming byte `i` is sent, or the assertion after the last (R144). -/
def primePhase (c : Config) (i : Nat) : Phase := if i < c.primeBytes then .n3Prime i else .n3Assert

end Sys2Proof.Machine
end

