-- ==== Sys2Proof/Machine/Writer.lean ====
section
/-! DEFINITION. The Block Writer, `WriteBlock` of `43_block_writer.md` R200, one collaborator call a phase. -/

namespace Sys2Proof.Machine

/-- R201, R202: frame `WRITE_SINGLE_BLOCK` with the scaled address and `extra = -1`. `cap_class` is read "as it
stands"; after an `INIT` that failed in step 9 that is the class step 6 or 7 recorded (log entry 25). -/
def enterWriteCmd (s : State) : State :=
  callFramer .wCmd s.cfg.idxWriteSingleBlock (writeArg s.dev.capClass.isHigh s.sector) extraMinusOne s

/-- R203: the judgement of the write command. -/
def judgeWriteCmd (s : State) : State :=
  if isAccepted s.cfg s.r1 s.answered then s.goto .wToken else takeFault .writeCmdRejected s

/-- The phase in which payload byte `i` is sent, or the first stand-in byte after the last (R204). -/
def dataPhase (c : Config) (i : Nat) : Phase := if i < c.blockBytes then .wData i else .wCheck 0

/-- R204: the data-start token, input discarded. -/
def sendToken (s : State) : State := (s.xfer s.cfg.tokenStart).goto (dataPhase s.cfg 0)

/-- R204: `Xfer(MemRead(i, 1))`, read immediately before it is sent, input discarded. -/
def sendPayload (i : Nat) (s : State) : State :=
  (s.xfer (memRead s (BitVec.ofNat 9 i))).goto (dataPhase s.cfg (i + 1))

/-- R204: the two filler bytes standing in for a check value. -/
def sendCheck (i : Fin 2) (s : State) : State :=
  (s.xfer s.cfg.filler).goto (if i = 0 then .wCheck 1 else .wResp)

/-- R205: the judgement of the data response; on acceptance `cnt <- WRITE_BUSY_RETRY` (R206). -/
def judgeDataResponse (s : State) : State :=
  if dataAccepted s.cfg s.b then (s.setCnt s.cfg.writeBusyRetry).goto .wBusy else takeFault .writeDataRejected s

/-- R205: "Exactly one byte is examined"; it is judged in the step after the transfer. -/
def readDataResponse (s : State) : State := s.pollByte.goto .wRespJudge

/-- R206: the judgement of one busy poll; on a non-zero byte `timeout_count <- cnt`. -/
def judgeBusy (s : State) : State :=
  if busyEnded s.b then (s.setTimeoutCount s.cnt).goto .wClean
  else failedAttempt .writeTimeout (fun t => t.goto .wBusy) s

/-- R206: one busy poll; its byte is judged in the step after it. -/
def pollBusy (s : State) : State := s.pollByte.goto .wBusyJudge

/-- R207: the cleanup transfer. -/
def sendCleanup (s : State) : State := (s.xfer s.cfg.filler).goto .wRelease

/-- R207: `Release()` and the successful return. -/
def releaseWrite (s : State) : State := returnWrite s.releaseBus

end Sys2Proof.Machine
end

