-- ==== Sys2Proof/Machine/Sequencer.lean ====
section
/-! DEFINITION. The sequencer: one step of the block (R8: "one call to one collaborator, or one internal register
update between two calls"), a bound on the steps an operation still needs (R122, R160, R212), and the run of an
operation until it returns or an input of the host lands. -/

namespace Sys2Proof.Machine

/-- The caller's phase after the framer has returned to it. -/
def judge (c : Caller) (s : State) : State :=
  match c with
  | .host => returnCmd s
  | .n4Idle => judgeGoIdle s
  | .n5IfCond => judgeIfCond s
  | .n6OpcondHc => judgeOpcondHc s
  | .n6Ocr => judgeReadOcr s
  | .n7OpcondLegacy => judgeOpcondLegacy s
  | .n9CsdCmd => judgeSendCsd s
  | .n11CrcOnOff => enterSetBlocklen s
  | .n11SetBlocklen => s.goto .n12Ready
  | .wCmd => judgeWriteCmd s

/-- One step of the sequencer. In `IDLE` nothing happens (R250: "nothing happens after reset until the host starts an
operation"). -/
def tick (s : State) : State :=
  match s.st with
  | .idle => s
  | .framer c p => framerTick c p s
  | .judge c => judge c s
  | .n1PowerOff => s.powerOff.goto .n1WaitOff
  | .n1WaitOff => (s.delay s.cfg.tOffMs).goto .n1PowerOn
  | .n1PowerOn => s.powerOn.goto .n1WaitOn
  | .n1WaitOn => (s.delay s.cfg.tOnMs).goto .n2Present
  | .n2Present => checkPresent s
  | .n2WriteProt => checkWriteProt s
  | .n3Rate => (s.setRate .slow).goto (primePhase s.cfg 0)
  | .n3Prime i => (s.xfer s.cfg.filler).goto (primePhase s.cfg (i + 1))
  | .n3Assert => enterGoIdle s.assertBus
  | .n8Release => s.releaseBus.goto .n8Rate
  | .n8Rate => (s.setRate .medium).goto .n8Assert
  | .n8Assert => enterSendCsd (s.assertBus.setCnt s.cfg.csdCmdRetry)
  | .n9Release => s.releaseBus.goto .n9Reassert
  | .n9Reassert => enterSendCsd s.assertBus
  | .n9CsdToken => pollCsdToken s
  | .n9CsdJudge => judgeCsdToken s
  | .n9CsdData i => readCsdByte i s
  | .n9CsdClean => (s.xfer s.cfg.filler).goto .n9CsdRelease
  | .n9CsdRelease => s.releaseBus.goto .n10Decode
  | .n10Decode => decodeRecord s
  | .n12Ready => markReady s
  | .wToken => sendToken s
  | .wData i => sendPayload i s
  | .wCheck i => sendCheck i s
  | .wResp => readDataResponse s
  | .wRespJudge => judgeDataResponse s
  | .wBusy => pollBusy s
  | .wBusyJudge => judgeBusy s
  | .wClean => sendCleanup s
  | .wRelease => releaseWrite s

/-- How many attempts a loop with this counter still makes: the counter counts down to 0 modulo `2^16` (R11). -/
def attemptsLeft (c : Count) : Nat := if c = 0 then 65536 else c.toNat

/-- A bound on the steps of one framer call. -/
def framerSteps (c : Config) : Nat := c.cmdRetry.toNat + 139

/-- A bound on the steps from the end of the poll: the extra bytes, the cleanup, the release. -/
def tailSteps (s : State) : Nat := extraCount s.extra + 4

/-- A bound on the steps the framer still makes. -/
def framerLeft (s : State) : FPhase → Nat
  | .assert => s.cfg.cmdRetry.toNat + tailSteps s + 8
  | .frame i => (6 - i.val) + (s.cfg.cmdRetry.toNat + tailSteps s + 1)
  | .poll => (s.cfg.cmdRetry - s.n).toNat + tailSteps s + 1
  | .extra i => (extraCount s.extra - i) + 4
  | .clean => 3
  | .release => 2

/-- Bounds on the steps from the named points of negotiation to its return, latest first. -/
def stepsFromDecode (c : Config) : Nat := 2 * framerSteps c + 4
def stepsFromTokenJudge (c : Config) (cnt : Count) : Nat := attemptsLeft cnt * 2 + (c.csdLen + stepsFromDecode c + 3)
def stepsFromToken (c : Config) (cnt : Count) : Nat := stepsFromTokenJudge c cnt + 1
def stepsFromCsdJudge (c : Config) (cnt : Count) : Nat :=
  attemptsLeft cnt * (framerSteps c + 3) + stepsFromToken c c.csdTokenRetry
def stepsFromSpeed (c : Config) : Nat := framerSteps c + stepsFromCsdJudge c c.csdCmdRetry + 4
def stepsFromOpcondJudge (c : Config) (cnt : Count) : Nat :=
  attemptsLeft cnt * (framerSteps c + 1) + (framerSteps c + stepsFromSpeed c + 2)
def stepsFromIfCondJudge (c : Config) : Nat := framerSteps c + stepsFromOpcondJudge c c.opcondRetry + 1
def stepsFromIdleJudge (c : Config) : Nat := framerSteps c + stepsFromIfCondJudge c + 1
def stepsFromAssert (c : Config) : Nat := framerSteps c + stepsFromIdleJudge c + 2

/-- A bound on the steps from the judgement of the write command to the return of `WRITE`. -/
def stepsFromWriteJudge (c : Config) : Nat := c.blockBytes + attemptsLeft c.writeBusyRetry * 2 + 9

/-- A bound on the steps an operation still makes after the framer has returned to this caller. -/
def callerLeft (s : State) : Caller → Nat
  | .host => 0
  | .n4Idle => stepsFromIdleJudge s.cfg
  | .n5IfCond => stepsFromIfCondJudge s.cfg
  | .n6OpcondHc => stepsFromOpcondJudge s.cfg s.cnt
  | .n6Ocr => stepsFromSpeed s.cfg
  | .n7OpcondLegacy => stepsFromOpcondJudge s.cfg s.cnt
  | .n9CsdCmd => stepsFromCsdJudge s.cfg s.cnt
  | .n11CrcOnOff => framerSteps s.cfg + 2
  | .n11SetBlocklen => 1
  | .wCmd => stepsFromWriteJudge s.cfg

/-- A bound on the steps the operation in progress still makes. -/
def ticksLeft (s : State) : Nat :=
  match s.st with
  | .idle => 0
  | .framer c p => framerLeft s p + callerLeft s c
  | .judge c => 1 + callerLeft s c
  | .n1PowerOff => s.cfg.primeBytes + stepsFromAssert s.cfg + 8
  | .n1WaitOff => s.cfg.primeBytes + stepsFromAssert s.cfg + 7
  | .n1PowerOn => s.cfg.primeBytes + stepsFromAssert s.cfg + 6
  | .n1WaitOn => s.cfg.primeBytes + stepsFromAssert s.cfg + 5
  | .n2Present => s.cfg.primeBytes + stepsFromAssert s.cfg + 4
  | .n2WriteProt => s.cfg.primeBytes + stepsFromAssert s.cfg + 3
  | .n3Rate => s.cfg.primeBytes + stepsFromAssert s.cfg + 2
  | .n3Prime i => (s.cfg.primeBytes - i) + stepsFromAssert s.cfg + 1
  | .n3Assert => stepsFromAssert s.cfg
  | .n8Release => stepsFromSpeed s.cfg
  | .n8Rate => stepsFromSpeed s.cfg - 1
  | .n8Assert => stepsFromSpeed s.cfg - 2
  | .n9Release => framerSteps s.cfg + stepsFromCsdJudge s.cfg s.cnt + 2
  | .n9Reassert => framerSteps s.cfg + stepsFromCsdJudge s.cfg s.cnt + 1
  | .n9CsdToken => stepsFromToken s.cfg s.cnt
  | .n9CsdJudge => stepsFromTokenJudge s.cfg s.cnt
  | .n9CsdData i => (s.cfg.csdLen - i) + stepsFromDecode s.cfg + 3
  | .n9CsdClean => stepsFromDecode s.cfg + 2
  | .n9CsdRelease => stepsFromDecode s.cfg + 1
  | .n10Decode => stepsFromDecode s.cfg
  | .n12Ready => 1
  | .wToken => stepsFromWriteJudge s.cfg
  | .wData i => (s.cfg.blockBytes - i) + attemptsLeft s.cfg.writeBusyRetry * 2 + 8
  | .wCheck i => attemptsLeft s.cfg.writeBusyRetry * 2 + 7 - i.val
  | .wResp => attemptsLeft s.cfg.writeBusyRetry * 2 + 5
  | .wRespJudge => attemptsLeft s.cfg.writeBusyRetry * 2 + 4
  | .wBusy => attemptsLeft s.cnt * 2 + 3
  | .wBusyJudge => attemptsLeft s.cnt * 2 + 2
  | .wClean => 2
  | .wRelease => 1

/-- Run the sequencer for at most this many steps, until the operation returns. -/
def runFor : Nat → State → State
  | 0, s => s
  | k + 1, s => if s.busy then runFor k (tick s) else s

/-- Run the operation in progress to its return, undisturbed by the host. -/
def runToReturn (s : State) : State := runFor (ticksLeft s) s

/-- How long the sequencer runs undisturbed: to the return of the operation, or to the next input of the host. -/
def runLength (s : State) : Nat :=
  match s.inputs with
  | [] => ticksLeft s
  | a :: _ => a.after

/-- The next input of the host has come as near as it can. -/
def landNext : List Arrival → List Arrival
  | [] => []
  | a :: rest => { a with after := 0 } :: rest

/-- Run the operation in progress until it returns or the next input of the host lands (R251, R254, R263 say what an
input does inside an operation). -/
def runOn (s : State) : State :=
  let t := runFor (runLength s) s
  { t with inputs := landNext t.inputs }

end Sys2Proof.Machine
end

