-- ==== Sys2Proof/Machine/HostOps.lean ====
section
/-! DEFINITION. The four `HOSTOP` rows: what a start of each operation does. An operation starts only in `IDLE`; "a
start while busy is ignored" (D3, R89, R254). A started operation runs by `runOn`. -/

namespace Sys2Proof.Machine

/-- R90, R110: the operands of `CMD` latched, the sequencer at the framer's first phase. -/
def startCmd (idx : BitVec 6) (arg : Word32) (extra : Byte) (dbg : Bool) (s : State) : State :=
  callFramer .host idx arg extra (s.startOp 0b01 dbg)

/-- R90, R141: the operand of `INIT` latched and every field of `dev` at its default. -/
def startInit (dbg : Bool) (s : State) : State :=
  ((s.startOp 0b10 dbg).setDev DeviceHandle.defaults).goto .n1PowerOff

/-- R90, R200: the operands of `WRITE` latched, the write command framed. -/
def startWrite (sector : Word32) (dbg : Bool) (s : State) : State :=
  enterWriteCmd ((s.startOp 0b11 dbg).setSector sector)

/-- R89, R121, D3: a refused start "pulses `done` with `res_ok = 0` and changes nothing else". -/
def refuseStart (s : State) : State := { s with done := true, resOk := false }

/-- The shared operation of `CMD` and of the wire commands: frame one command for the host. -/
def hostFrame (idx : BitVec 6) (arg : Word32) (extra : Byte) (dbg : Bool) (s : State) : State :=
  if s.busy then s
  else if extraRefused s.cfg extra then refuseStart s
  else runOn (startCmd idx arg extra dbg s)

/-- `NOP` (R89: "No operation; ignored"; U24: "nothing happens, no `done`"). -/
def execNop (s : State) : Host.Outcome State Fault Refusal := .next s

/-- `CMD` (R110). -/
def execCmd (idx : BitVec 6) (arg : Word32) (extra : Byte) (dbg : Bool) (s : State) :
    Host.Outcome State Fault Refusal :=
  .next (hostFrame idx arg extra dbg s)

/-- `INIT` (R140). -/
def execInit (dbg : Bool) (s : State) : Host.Outcome State Fault Refusal :=
  .next (if s.busy then s else runOn (startInit dbg s))

/-- `WRITE` (R200). -/
def execWrite (sector : Word32) (dbg : Bool) (s : State) : Host.Outcome State Fault Refusal :=
  .next (if s.busy then s else runOn (startWrite sector dbg s))

end Sys2Proof.Machine
end

