-- ==== Sys2Proof/Machine/WireCommands.lean ====
section
/-! DEFINITION. The ten `FRAME48` rows: each is the framed command that the table names, issued by the host as the
operation `CMD` with the index, the argument and the `extra` of the row (R84, R85; vectors F1 to F12 write them so).
The framer selects the check value itself (R82), so `crc` is not read. -/

namespace Sys2Proof.Machine

/-- `GO_IDLE_STATE` (R84, R145): index `IDX_GO_IDLE_STATE`, argument 0, `extra = 0`. -/
def execGoIdleState (dbg : Bool) (s : State) : Host.Outcome State Fault Refusal :=
  .next (hostFrame s.cfg.idxGoIdleState 0 0 dbg s)

/-- `SEND_IF_COND` (R84, R146): argument `IF_COND_PATTERN`, 4 extra bytes. -/
def execSendIfCond (dbg : Bool) (s : State) : Host.Outcome State Fault Refusal :=
  .next (hostFrame s.cfg.idxSendIfCond s.cfg.ifCondPattern s.cfg.respExtra dbg s)

/-- `SEND_OP_COND.HCS` (R84, R147): argument `HCS_ARG`, `extra = 0`. -/
def execSendOpCondHcs (_crc : BitVec 7) (dbg : Bool) (s : State) : Host.Outcome State Fault Refusal :=
  .next (hostFrame s.cfg.idxSendOpCond s.cfg.hcsArg 0 dbg s)

/-- `SEND_OP_COND.LEGACY` (R84, R150): argument 0, `extra = 0`. -/
def execSendOpCondLegacy (_crc : BitVec 7) (dbg : Bool) (s : State) : Host.Outcome State Fault Refusal :=
  .next (hostFrame s.cfg.idxSendOpCond 0 0 dbg s)

/-- `READ_OCR` (R84, R148): argument 0, 4 extra bytes. -/
def execReadOcr (_crc : BitVec 7) (dbg : Bool) (s : State) : Host.Outcome State Fault Refusal :=
  .next (hostFrame s.cfg.idxReadOcr 0 s.cfg.respExtra dbg s)

/-- `SEND_CSD` (R84, R152): argument 0, `extra = -1`. -/
def execSendCsd (_crc : BitVec 7) (dbg : Bool) (s : State) : Host.Outcome State Fault Refusal :=
  .next (hostFrame s.cfg.idxSendCsd 0 extraMinusOne dbg s)

/-- `CRC_ON_OFF` (R84, R156): argument 0, `extra = 0`. -/
def execCrcOnOff (_crc : BitVec 7) (dbg : Bool) (s : State) : Host.Outcome State Fault Refusal :=
  .next (hostFrame s.cfg.idxCrcOnOff 0 0 dbg s)

/-- `SET_BLOCKLEN` (R84, R157): argument `BLOCKLEN_ARG`, `extra = 0`. -/
def execSetBlocklen (_crc : BitVec 7) (dbg : Bool) (s : State) : Host.Outcome State Fault Refusal :=
  .next (hostFrame s.cfg.idxSetBlocklen s.cfg.blocklenArg 0 dbg s)

/-- `WRITE_SINGLE_BLOCK` (R84, R202): the argument as framed, `extra = -1`. -/
def execWriteSingleBlock (arg : Word32) (_crc : BitVec 7) (dbg : Bool) (s : State) :
    Host.Outcome State Fault Refusal :=
  .next (hostFrame s.cfg.idxWriteSingleBlock arg extraMinusOne dbg s)

/-- `FRAME` (R81, R89): any 6-bit index, any argument, any `extra`. -/
def execFrame (idx : BitVec 6) (arg : Word32) (_crc : BitVec 7) (extra : Byte) (dbg : Bool) (s : State) :
    Host.Outcome State Fault Refusal :=
  .next (hostFrame idx arg extra dbg s)

end Sys2Proof.Machine
end

