-- ==== Sys2Proof/Machine/Dispatch.lean ====
section
/-! DEFINITION. The dispatch: one arm per instruction. -/

namespace Sys2Proof.Machine

def exec (i : Instr) (s : State) : Host.Outcome State Fault Refusal :=
  match i with
  | .goIdleState dbg => Sys2Proof.Machine.execGoIdleState dbg s
  | .sendIfCond dbg => Sys2Proof.Machine.execSendIfCond dbg s
  | .sendOpCondHcs crc dbg => Sys2Proof.Machine.execSendOpCondHcs crc dbg s
  | .sendOpCondLegacy crc dbg => Sys2Proof.Machine.execSendOpCondLegacy crc dbg s
  | .readOcr crc dbg => Sys2Proof.Machine.execReadOcr crc dbg s
  | .sendCsd crc dbg => Sys2Proof.Machine.execSendCsd crc dbg s
  | .crcOnOff crc dbg => Sys2Proof.Machine.execCrcOnOff crc dbg s
  | .setBlocklen crc dbg => Sys2Proof.Machine.execSetBlocklen crc dbg s
  | .writeSingleBlock arg crc dbg => Sys2Proof.Machine.execWriteSingleBlock arg crc dbg s
  | .frame idx arg crc extra dbg => Sys2Proof.Machine.execFrame idx arg crc extra dbg s
  | .nop => Sys2Proof.Machine.execNop s
  | .cmd idx arg extra dbg => Sys2Proof.Machine.execCmd idx arg extra dbg s
  | .init dbg => Sys2Proof.Machine.execInit dbg s
  | .write sector dbg => Sys2Proof.Machine.execWrite sector dbg s

end Sys2Proof.Machine
end

