-- ==== Sys2Proof/Machine/HostPort.lean ====
section
/-! DEFINITION. What an input of the host does when it lands (R90, R250, R251, R254, R263). -/

namespace Sys2Proof.Machine

/-- Why a word at the port is refused, by name (R89). -/
def refusalOf : DecodeError → Refusal
  | .startBit => .frameStartBit
  | .transmitMarker => .frameTransmitMarker
  | .stopBit => .frameStopBit

/-- A start pulse: "the block accepts the start only in `st = IDLE`" (R90); "A start pulse while `busy = 1` is ignored
by the block" (R254). -/
def hostStart (w : PortWord) (s : State) : Host.Outcome State Fault Refusal :=
  if s.busy then .next s
  else match decode w with
    | .ok i => exec i s
    | .error e => .refused (refusalOf e)

/-- What an input does. -/
def hostInput (e : HostEvent) (s : State) : Host.Outcome State Fault Refusal :=
  match e with
  | .reset => .next (resetBlock s)
  | .poke i b => .next (hostPoke s i b)
  | .start w => hostStart w s

/-- The body of a step. -/
def hostStep (s : State) : Host.Outcome State Fault Refusal :=
  match s.inputs with
  | [] => .next (if s.busy then runOn s else s)
  | a :: rest =>
    if s.busy ∧ a.after ≠ 0 then .next (runOn s) else hostInput a.event { s with inputs := rest }

end Sys2Proof.Machine
end

