-- ==== Sys2Proof/Machine/Step.lean ====
section
/-! DEFINITION. One step of the machine, and a word of the opcode table placed where the next step takes its
instruction. The block fetches nothing (R70); what takes the place of a fetch is a start pulse of the host (R90). -/

namespace Sys2Proof.Machine

/-- One step: the operation in progress runs until it returns or the host's next input lands; an input that has landed
takes effect; an idle block without inputs waits (R250). The `done` pulse of an earlier step is over (R30). -/
def step (s : State) : Host.Outcome State Fault Refusal :=
  hostStep { s with done := false }

/-- The state in which the very next step is a start with this word of the opcode table: the block idle and the start
the host's next input. -/
def State.withFetchWord (s : State) (nbits w : Nat) : State :=
  { s with st := .idle, inputs := ⟨0, .start (tableWord nbits w)⟩ :: s.inputs }

end Sys2Proof.Machine
end

