-- ==== Sys2Proof/Machine/Pseudocode.lean ====
section
/-! DEFINITION. The three operations as the spec's pseudocode writes them, R110 (`TransmitCommand`), R140 (`Negotiate`)
and R200 (`WriteBlock`), without sequencer phases: what the phase machine of `Sequencer.lean` is held to. -/

namespace Sys2Proof.Machine

/-- `for each byte: Xfer(byte)`, inputs discarded. -/
def sendAll : List Byte → State → State
  | [], s => s
  | x :: l, s => sendAll l (s.xfer x)

/-- R113, R120: at most `k` more polls for the response token. -/
def pollToken : Nat → State → State
  | 0, s => s
  | k + 1, s =>
    if s.inByte = s.cfg.filler then pollToken k ((s.xfer s.cfg.filler).setN (s.n + 1))
    else ((s.xfer s.cfg.filler).setN (s.n + 1)).setToken s.inByte true

/-- R115: `k` more extra bytes. -/
def readExtras : Nat → State → State
  | 0, s => s
  | k + 1, s => readExtras k ((s.xfer s.cfg.filler).setXbuf (s.xbuf ++ [s.inByte]))

/-- R110: the operands, `Assert()`, the frame. -/
def openFrame (idx : BitVec 6) (arg : Word32) (extra : Byte) (s : State) : State :=
  ({ s with idx := idx, arg := arg, extra := extra }.assertBus).setF (buildFrame s.cfg idx arg)

/-- R110: the six frame bytes, then `answered <- 0; r1 <- FILLER; n <- 0`. -/
def sendFrame (s : State) : State :=
  (((sendAll s.f.toList s).setToken s.cfg.filler false).setN 0).setXbuf []

/-- R115: extra bytes only after an answered token. -/
def takeExtras (s : State) : State := if s.answered then readExtras (extraCount s.extra) s else s

/-- R116, R117: the cleanup transfer and `Release()`, unless `extra < 0`. -/
def closeFrame (s : State) : State := if extraNegative s.extra then s else (s.xfer s.cfg.filler).releaseBus

/-- R110 `TransmitCommand(idx, arg, extra)`. -/
def transmit (idx : BitVec 6) (arg : Word32) (extra : Byte) (s : State) : State :=
  closeFrame (takeExtras (pollToken s.cfg.cmdRetry.toNat (sendFrame (openFrame idx arg extra s))))

/-- R120, D13: a bounded loop. `attempt` is one attempt, `good` judges it, `onGood` goes on, `again` comes between two
attempts; the last failed attempt ends in the fault `e`. -/
def attempts (e : FaultFlag) (attempt : State → State) (good : State → Bool) (onGood again : State → State) :
    Nat → State → State
  | 0, s => s
  | k + 1, s =>
    if good (attempt s) then onGood (attempt s)
    else if k = 0 then takeFault e ((attempt s).setCnt ((attempt s).cnt - 1))
    else attempts e attempt good onGood again k (again ((attempt s).setCnt ((attempt s).cnt - 1)))

/-- R120: `cnt <- bound`, then the loop. -/
def boundedLoop (bound : Count) (e : FaultFlag) (attempt : State → State) (good : State → Bool)
    (onGood again : State → State) (s : State) : State :=
  attempts e attempt good onGood again (attemptsLeft bound) (s.setCnt bound)

/-- R140 steps 11 and 12. -/
def negotiateHousekeep (s : State) : State :=
  markReady (transmit s.cfg.idxSetBlocklen s.cfg.blocklenArg 0 (transmit s.cfg.idxCrcOnOff 0 0 s))

/-- `k` record bytes (R154). -/
def readRecord : Nat → State → State
  | 0, s => s
  | k + 1, s => readRecord k ((s.xfer s.cfg.filler).setCsd (s.csd ++ [s.inByte]))

/-- R140 steps 9 (the record) and 10. -/
def negotiateRecord (s : State) : State :=
  negotiateHousekeep (storeCapacity
    ((readRecord s.cfg.csdLen ((s.setTimeoutCount s.cnt).setCsd [])).xfer s.cfg.filler).releaseBus)

/-- R140 step 9, the data-start token. -/
def negotiateToken (s : State) : State :=
  boundedLoop s.cfg.csdTokenRetry .csdTokenMissing State.pollByte (fun t => t.b == t.cfg.tokenStart) negotiateRecord id
    (s.setTimeoutCount s.cnt)

/-- R140 steps 8 and 9 (`SEND_CSD`). -/
def negotiateCsd (s : State) : State :=
  boundedLoop s.cfg.csdCmdRetry .csdTimeout (fun t => transmit t.cfg.idxSendCsd 0 extraMinusOne t)
    (fun t => isAccepted t.cfg t.r1 t.answered) negotiateToken (fun t => t.releaseBus.assertBus)
    ((s.releaseBus.setRate .medium).assertBus)

/-- R140 step 6, the OCR. -/
def negotiateOcr (s : State) : State :=
  let t := transmit s.cfg.idxReadOcr 0 s.cfg.respExtra (s.setTimeoutCount s.cnt)
  if !ocrAccepts t.cfg t.r1 t.answered then takeFault .ocrTimeout t
  else if !ocrPoweredUp (heldAt t.xbuf 0) then takeFault .powerupNotConfirmed t
  else negotiateCsd (t.setDev (t.dev.withCapClass (CapClass.ofBit (ocrHighCapacity (heldAt t.xbuf 0)))))

/-- R140 step 7, after ready. -/
def negotiateLegacyReady (s : State) : State :=
  negotiateCsd ((s.setTimeoutCount s.cnt).setDev ((s.setTimeoutCount s.cnt).dev.withCapClass .standard))

/-- R140 steps 6 and 7. -/
def negotiateOpcond (s : State) : State :=
  if s.echo then
    boundedLoop s.cfg.opcondRetry .opcondTimeout (fun t => transmit t.cfg.idxSendOpCond t.cfg.hcsArg 0 t)
      (fun t => isReady t.cfg t.r1 t.answered) negotiateOcr id s
  else
    boundedLoop s.cfg.opcondRetry .opcondTimeout (fun t => transmit t.cfg.idxSendOpCond 0 0 t)
      (fun t => isReady t.cfg t.r1 t.answered) negotiateLegacyReady id s

/-- R140 step 5. -/
def negotiateIfCond (s : State) : State :=
  let t := transmit s.cfg.idxSendIfCond s.cfg.ifCondPattern s.cfg.respExtra s
  if isExactlyIdle t.cfg t.r1 t.answered then
    negotiateOpcond (recordEcho (echoMatches t.cfg (heldAt t.xbuf 2) (heldAt t.xbuf 3)) t)
  else match t.cfg.v1Policy with
    | .stop => returnInit (recordEcho false t)
    | .legacyBranch => negotiateOpcond (recordEcho false t)

/-- R140 step 4. -/
def negotiateIdle (s : State) : State :=
  let t := transmit s.cfg.idxGoIdleState 0 0 s
  if isIdleAnswer t.cfg t.r1 t.answered then negotiateIfCond t else takeFault .idleFailed t

/-- R140 step 3. -/
def negotiatePrime (s : State) : State :=
  negotiateIdle (sendAll (List.replicate s.cfg.primeBytes s.cfg.filler) (s.setRate .slow)).assertBus

/-- R140 step 2. -/
def negotiateSense (s : State) : State :=
  if !s.presentBit then takeFault .noCard s.sensePresent
  else if s.sensePresent.writeProtBit then takeFault .writeProtected s.sensePresent.senseWriteProt
  else negotiatePrime s.sensePresent.senseWriteProt

/-- R140 `Negotiate`. -/
def negotiate (s : State) : State :=
  negotiateSense ((((s.setDev DeviceHandle.defaults).powerOff.delay s.cfg.tOffMs).powerOn).delay s.cfg.tOnMs)

/-- `Xfer(MemRead(i, 1))` for `k` payload bytes from byte `i` (R204). -/
def sendPayloadFrom (i : Nat) : Nat → State → State
  | 0, s => s
  | k + 1, s => sendPayloadFrom (i + 1) k (s.xfer (memRead s (BitVec.ofNat 9 i)))

/-- R204, R205: the two stand-in bytes and the data response byte. -/
def closeBlock (s : State) : State := ((s.xfer s.cfg.filler).xfer s.cfg.filler).pollByte

/-- R204: the data-start token, the payload, and the rest of the block. -/
def sendBlock (s : State) : State := closeBlock (sendPayloadFrom 0 s.cfg.blockBytes (s.xfer s.cfg.tokenStart))

/-- R200: the busy polls, the cleanup and the return. -/
def awaitBusy (s : State) : State :=
  boundedLoop s.cfg.writeBusyRetry .writeTimeout State.pollByte (fun t => busyEnded t.b)
    (fun t => returnWrite ((t.setTimeoutCount t.cnt).xfer t.cfg.filler).releaseBus) id s

/-- R200, after the data response. -/
def writeResponse (s : State) : State :=
  if !dataAccepted s.cfg s.b then takeFault .writeDataRejected s else awaitBusy s

/-- R200, after the write command. -/
def writeData (s : State) : State :=
  if !isAccepted s.cfg s.r1 s.answered then takeFault .writeCmdRejected s else writeResponse (sendBlock s)

/-- R200 `WriteBlock(sector)`. -/
def writeBlock (sector : Word32) (s : State) : State :=
  writeData (transmit s.cfg.idxWriteSingleBlock (writeArg s.dev.capClass.isHigh sector) extraMinusOne
    (s.setSector sector))

end Sys2Proof.Machine
end

