-- ==== Sys2Proof/Safety.lean ====
section
/-! DEFINITION. What counts as a safe run, in the terms the statements use: readings of the trace (R8, R32: "computes it
from the trace"), the states in which the host may start an operation, and the invariants of the machine. -/

namespace Sys2Proof.Machine

/-- The block is idle and no input of the host is on its way: an operation started now runs undisturbed. -/
structure State.AtRest (s : State) : Prop where
  idle : s.st = .idle
  undisturbed : s.inputs = []

/-- Answer `k` of a collaborator, counted from 0 (R91: when the script runs out, the same answer for ever). -/
def Answers.nth {α : Type} (a : Answers α) (k : Nat) : α := a.script.getD k a.rest

/-- The `XFER` events of sending these bytes in order, where the first of them gets answer `k`. -/
def exchange (a : Answers Byte) (dbg : Bool) : Nat → List Byte → List Event
  | _, [] => []
  | k, x :: l => .xfer x (a.nth k) dbg :: exchange a dbg (k + 1) l

/-- The answers `k`, `k + 1`, …, `n` of them. -/
def received (a : Answers Byte) (k : Nat) : Nat → List Byte
  | 0 => []
  | n + 1 => a.nth k :: received a (k + 1) n

/-- The bus state that a trace leaves, the latest event first (R29, R68: "the computed bus state"). -/
def busOf : List Event → Bool
  | [] => false
  | .assert :: _ => true
  | .release :: _ => false
  | .xfer _ _ _ :: l => busOf l
  | .rate _ :: l => busOf l
  | .pwrOff :: l => busOf l
  | .pwrOn :: l => busOf l
  | .sensePresent _ :: l => busOf l
  | .senseWp _ :: l => busOf l
  | .delay _ :: l => busOf l

/-- R68: every `RATE` event occurs while the computed bus state is released. -/
def ratesReleased : List Event → Prop
  | [] => True
  | .rate _ :: l => busOf l = false ∧ ratesReleased l
  | .assert :: l => ratesReleased l
  | .release :: l => ratesReleased l
  | .xfer _ _ _ :: l => ratesReleased l
  | .pwrOff :: l => ratesReleased l
  | .pwrOn :: l => ratesReleased l
  | .sensePresent _ :: l => ratesReleased l
  | .senseWp _ :: l => ratesReleased l
  | .delay _ :: l => ratesReleased l

/-- An event without its debug tag (R119). -/
def Event.untagged : Event → Event
  | .xfer x y _ => .xfer x y false
  | .assert => .assert
  | .release => .release
  | .rate r => .rate r
  | .pwrOff => .pwrOff
  | .pwrOn => .pwrOn
  | .sensePresent b => .sensePresent b
  | .senseWp b => .senseWp b
  | .delay n => .delay n

/-- A state without the debug selection. -/
def State.untagged (s : State) : State := { s with dbg := false, trace := s.trace.map Event.untagged }

end Sys2Proof.Machine

namespace Sys2Proof

/-- R119: the same instruction with this debug selection; `NOP` has none. -/
def Instr.withDebug (d : Bool) : Instr → Instr
  | .goIdleState _ => .goIdleState d
  | .sendIfCond _ => .sendIfCond d
  | .sendOpCondHcs crc _ => .sendOpCondHcs crc d
  | .sendOpCondLegacy crc _ => .sendOpCondLegacy crc d
  | .readOcr crc _ => .readOcr crc d
  | .sendCsd crc _ => .sendCsd crc d
  | .crcOnOff crc _ => .crcOnOff crc d
  | .setBlocklen crc _ => .setBlocklen crc d
  | .writeSingleBlock arg crc _ => .writeSingleBlock arg crc d
  | .frame idx arg crc extra _ => .frame idx arg crc extra d
  | .nop => .nop
  | .cmd idx arg extra _ => .cmd idx arg extra d
  | .init _ => .init d
  | .write sector _ => .write sector d

end Sys2Proof

namespace Sys2Proof.Machine

/-- Every `XFER` among these events carries this tag (R119). -/
def allTagged (dbg : Bool) (l : List Event) : Prop := ∀ x y d, Event.xfer x y d ∈ l → d = dbg

/-- The three flags that only `WRITE` sets (R24, bits 8 to 10). -/
def StatusRecord.noWriteFlag (r : StatusRecord) : Prop :=
  r.writeCmdRejected = false ∧ r.writeDataRejected = false ∧ r.writeTimeout = false

/-- The callers of the framer that belong to `INIT`. -/
def Caller.negotiates : Caller → Bool
  | .host => false
  | .n4Idle => true
  | .n5IfCond => true
  | .n6OpcondHc => true
  | .n6Ocr => true
  | .n7OpcondLegacy => true
  | .n9CsdCmd => true
  | .n11CrcOnOff => true
  | .n11SetBlocklen => true
  | .wCmd => false

/-- The phases of `INIT` (R21). -/
def Phase.negotiates : Phase → Bool
  | .idle => false
  | .framer c _ => c.negotiates
  | .judge c => c.negotiates
  | .n1PowerOff => true
  | .n1WaitOff => true
  | .n1PowerOn => true
  | .n1WaitOn => true
  | .n2Present => true
  | .n2WriteProt => true
  | .n3Rate => true
  | .n3Prime _ => true
  | .n3Assert => true
  | .n8Release => true
  | .n8Rate => true
  | .n8Assert => true
  | .n9Release => true
  | .n9Reassert => true
  | .n9CsdToken => true
  | .n9CsdJudge => true
  | .n9CsdData _ => true
  | .n9CsdClean => true
  | .n9CsdRelease => true
  | .n10Decode => true
  | .n12Ready => true
  | .wToken => false
  | .wData _ => false
  | .wCheck _ => false
  | .wResp => false
  | .wRespJudge => false
  | .wBusy => false
  | .wBusyJudge => false
  | .wClean => false
  | .wRelease => false

/-- R25 and R224 for every moment: no flag of a negotiation attempt stands before the attempt has ended, at most one
stands after it, and `ok` excludes them. -/
def StatusInv (s : State) : Prop :=
  if s.st.negotiates then s.dev.status.fatalCount = 0 ∧ s.dev.status.ok = false ∧ s.dev.status.noWriteFlag
  else s.dev.status.fatalCount ≤ 1 ∧ (s.dev.status.ok = true → s.dev.status.fatalCount = 0)

/-- The invariant of the machine: the payload buffer is in its canonical form, `bus_asserted` is what the trace says
(R29), and the StatusRecord obeys R25. -/
structure Inv (s : State) : Prop where
  memory : Memory.wf s.mem
  bus : s.busAsserted = busOf s.trace
  status : StatusInv s

/-- The framer phases after the poll, and their judgement: how many extra bytes have arrived (R115). -/
def extrasHeld (s : State) : FPhase → Prop
  | .assert => True
  | .frame _ => True
  | .poll => s.answered = false ∧ s.xbuf = []
  | .extra i => s.answered = true ∧ s.xbuf.length = i ∧ i < extraCount s.extra
  | .clean => s.answered = true → s.xbuf.length = extraCount s.extra
  | .release => s.answered = true → s.xbuf.length = extraCount s.extra

/-- Steps 5 and 6 ask for `RESP_EXTRA` extra bytes. -/
def callerExtra (s : State) : Caller → Prop
  | .n5IfCond => s.extra = s.cfg.respExtra
  | .n6Ocr => s.extra = s.cfg.respExtra
  | .host => True
  | .n4Idle => True
  | .n6OpcondHc => True
  | .n7OpcondLegacy => True
  | .n9CsdCmd => True
  | .n11CrcOnOff => True
  | .n11SetBlocklen => True
  | .wCmd => True

/-- What the extra-byte buffer holds, by phase (R27, R33). -/
def xbufHeld (s : State) : Phase → Prop
  | .framer c p => callerExtra s c ∧ extrasHeld s p
  | .judge c => callerExtra s c ∧ (s.answered = true → s.xbuf.length = extraCount s.extra)
  | .idle => True
  | .n1PowerOff => True
  | .n1WaitOff => True
  | .n1PowerOn => True
  | .n1WaitOn => True
  | .n2Present => True
  | .n2WriteProt => True
  | .n3Rate => True
  | .n3Prime _ => True
  | .n3Assert => True
  | .n8Release => True
  | .n8Rate => True
  | .n8Assert => True
  | .n9Release => True
  | .n9Reassert => True
  | .n9CsdToken => True
  | .n9CsdJudge => True
  | .n9CsdData _ => True
  | .n9CsdClean => True
  | .n9CsdRelease => True
  | .n10Decode => True
  | .n12Ready => True
  | .wToken => True
  | .wData _ => True
  | .wCheck _ => True
  | .wResp => True
  | .wRespJudge => True
  | .wBusy => True
  | .wBusyJudge => True
  | .wClean => True
  | .wRelease => True

/-- What the CapacityRecord holds, by phase: the bytes received so far while step 9 reads it and until step 10 has
decoded it, and no value at any other time (R28: "it is not retained"). -/
def csdHeld (s : State) : Phase → Prop
  | .n9CsdData i => s.csd.length = i ∧ i < s.cfg.csdLen
  | .n9CsdClean => s.csd.length = s.cfg.csdLen
  | .n9CsdRelease => s.csd.length = s.cfg.csdLen
  | .n10Decode => s.csd.length = s.cfg.csdLen
  | .framer _ _ => s.csd = []
  | .judge _ => s.csd = []
  | .idle => s.csd = []
  | .n1PowerOff => s.csd = []
  | .n1WaitOff => s.csd = []
  | .n1PowerOn => s.csd = []
  | .n1WaitOn => s.csd = []
  | .n2Present => s.csd = []
  | .n2WriteProt => s.csd = []
  | .n3Rate => s.csd = []
  | .n3Prime _ => s.csd = []
  | .n3Assert => s.csd = []
  | .n8Release => s.csd = []
  | .n8Rate => s.csd = []
  | .n8Assert => s.csd = []
  | .n9Release => s.csd = []
  | .n9Reassert => s.csd = []
  | .n9CsdToken => s.csd = []
  | .n9CsdJudge => s.csd = []
  | .n12Ready => s.csd = []
  | .wToken => s.csd = []
  | .wData _ => s.csd = []
  | .wCheck _ => s.csd = []
  | .wResp => s.csd = []
  | .wRespJudge => s.csd = []
  | .wBusy => s.csd = []
  | .wBusyJudge => s.csd = []
  | .wClean => s.csd = []
  | .wRelease => s.csd = []

/-- R28, R33: what the buffers hold where a rule of the block reads them, and that no record is retained elsewhere. -/
structure HeldInv (s : State) : Prop where
  xbuf : xbufHeld s s.st
  csd : csdHeld s s.st

/-- What a host reset leaves alone in the model: the parameters and what belongs to the host and the environment. -/
structure SameSurroundings (s t : State) : Prop where
  cfg : t.cfg = s.cfg
  env : t.env = s.env
  mem : t.mem = s.mem

end Sys2Proof.Machine
end

