-- ==== Sys2Proof/Certificates/Slice0/Obligations.lean ====
section
/-! DEFINITION. The statements for the provers. Each docstring names the rules of `spec/` it formalises; one that rests
on a choice of the model names the log entry. -/

open Sys2Proof Sys2Proof.Machine

/-! ### Encoding -/

/-- R80, R81, R90 and the opcode table: decoding an encoded well-formed instruction gives it back, with every operand at
every value. The places of the operands above the table's bits are the model's (log entry 1). -/
def Obligations.DecodeOfEncodeIsTheInstruction : Prop :=
  ∀ i : Instr, i.wellFormed = true → decode (encode i) = .ok i

/-- R80: no two frames are read alike. An instruction decoded from a frame word encodes to a frame word with the same 48
bits, so every bit of the frame is kept. -/
def Obligations.DecodedFrameKeepsEveryBit : Prop :=
  ∀ (w : BitVec 57) (i : Instr), decode (.frame w) = .ok i →
    ∃ v : BitVec 57, encode i = .frame v ∧ v.extractLsb' 0 48 = w.extractLsb' 0 48

/-- The opcode table and R84: words written out from the "encoding" column decode to their rows. -/
def Obligations.TableWordsDecodeToTheirRows : Prop :=
  decodeTableWord 48 0x400000000095 = some (.goIdleState false) ∧
  decodeTableWord 48 0x48000001AA87 = some (.sendIfCond false) ∧
  decodeTableWord 48 0x4140000000FF = some (.sendOpCondHcs 0x7F false) ∧
  decodeTableWord 48 0x4100000000FF = some (.sendOpCondLegacy 0x7F false) ∧
  decodeTableWord 48 0x7A00000000FF = some (.readOcr 0x7F false) ∧
  decodeTableWord 48 0x4900000000FF = some (.sendCsd 0x7F false) ∧
  decodeTableWord 48 0x7B00000000FF = some (.crcOnOff 0x7F false) ∧
  decodeTableWord 48 0x5000000200FF = some (.setBlocklen 0x7F false) ∧
  decodeTableWord 48 0x5800000600FF = some (.writeSingleBlock 0x00000600 0x7F false) ∧
  decodeTableWord 48 0x51DEADBEEFFF = some (.frame 17 0xDEADBEEF 0x7F 0 false) ∧
  decodeTableWord 8 0 = some .nop ∧
  decodeTableWord 8 1 = some (.cmd 0 0 0 false) ∧
  decodeTableWord 8 2 = some (.init false) ∧
  decodeTableWord 8 3 = some (.write 0 false)

/-- R89 ("Start bit, transmit marker, stop bit: Constants; the block cannot send a frame with other values"), R80: a
frame word is an instruction exactly when bit 47 is 0, bit 46 is 1 and bit 0 is 1; an idle block refuses any other word
by the name of the wrong bit. That it refuses (and does not ignore) such a word is the model's (log entry 1). -/
def Obligations.MalformedFrameWordsAreRefused : Prop :=
  ∀ (w : BitVec 57) (s : State) (n : Nat) (rest : List Arrival),
    ((∃ i, decode (.frame w) = .ok i) ↔ (w.getLsbD 47 = false ∧ w.getLsbD 46 = true ∧ w.getLsbD 0 = true)) ∧
    (s.st = .idle → s.inputs = ⟨n, .start (.frame w)⟩ :: rest →
      (w.getLsbD 47 = true → step s = .refused .frameStartBit) ∧
      (w.getLsbD 47 = false → w.getLsbD 46 = false → step s = .refused .frameTransmitMarker) ∧
      (w.getLsbD 47 = false → w.getLsbD 46 = true → w.getLsbD 0 = false → step s = .refused .frameStopBit))

/-- R81: the frame bytes of every index and argument, and the order in which `CMD` transmits them. The operands stand
at the head of the events that the operation appends. -/
def Obligations.FrameBytesAreBuiltAndSentInOrder : Prop :=
  ∀ (s : State) (idx : BitVec 6) (arg : Word32) (extra : Byte) (dbg : Bool), s.AtRest → ¬ extraRefused s.cfg extra →
    ∃ (t : State) (l : List Event) (f0 f1 f2 f3 f4 f5 : Byte),
      exec (.cmd idx arg extra dbg) s = .next t ∧
      f0 = 0x40 ||| idx.setWidth 8 ∧
      f1.toNat = arg.toNat / 2 ^ 24 ∧
      f2.toNat = arg.toNat / 2 ^ 16 % 256 ∧
      f3.toNat = arg.toNat / 2 ^ 8 % 256 ∧
      f4.toNat = arg.toNat % 256 ∧
      f5.toNat = 2 * (crcLookup s.cfg idx).toNat + 1 ∧
      t.f = #v[f0, f1, f2, f3, f4, f5] ∧
      t.trace.reverse =
        s.trace.reverse ++ (.assert :: exchange s.env.xfer dbg 0 [f0, f1, f2, f3, f4, f5]) ++ l

/-- R82: the check value is `CRC_TABLE[idx]` for a key of the table and `CRC_DEFAULT` otherwise; with the standard
table the sixth frame byte is `0x95` for index 0, `0x87` for index 8 and `0xFF` for every other index. -/
def Obligations.CheckValueIsLookedUpByIndex : Prop :=
  (∀ (c : Config) (idx : BitVec 6) (v : BitVec 7), (c.crcTable.map Prod.fst).Nodup → (idx, v) ∈ c.crcTable →
    crcLookup c idx = v) ∧
  (∀ (c : Config) (idx : BitVec 6), (∀ p ∈ c.crcTable, p.1 ≠ idx) → crcLookup c idx = c.crcDefault) ∧
  (∀ idx : BitVec 6, frameTail Config.standard idx = if idx = 0 then 0x95 else if idx = 8 then 0x87 else 0xFF)

/-! ### Steps, inputs and reset -/

/-- R90: a start pulse at an idle block runs the instruction its word decodes to. A step also ends the `done` pulse of
an earlier one (R30) and takes the input from the list of inputs still to come. -/
def Obligations.AStepRunsTheDecodedInstruction : Prop :=
  ∀ (s : State) (n : Nat) (w : PortWord) (rest : List Arrival) (i : Instr), s.st = .idle →
    s.inputs = ⟨n, .start w⟩ :: rest → decode w = .ok i →
    step s = exec i { s with done := false, inputs := rest }

/-- R250: nothing happens in an idle block until the host starts an operation. R254, R89: a start pulse that lands while
the block is busy is ignored: nothing but the pulse itself is gone, and no instruction does anything then. -/
def Obligations.AnIdleBlockWaitsAndABusyOneIgnoresStarts : Prop :=
  (∀ s : State, s.AtRest → step s = .next { s with done := false }) ∧
  (∀ (s : State) (w : PortWord) (rest : List Arrival), s.st ≠ .idle → s.inputs = ⟨0, .start w⟩ :: rest →
    step s = .next { s with done := false, inputs := rest }) ∧
  (∀ (i : Instr) (s : State), s.st ≠ .idle → exec i s = .next s)

/-- R34, R250: the values that reset leaves. -/
def Obligations.ResetLeavesTheValuesOfR34 : Prop :=
  State.reset.st = .idle ∧ State.reset.busy = false ∧ State.reset.done = false ∧ State.reset.resOk = false ∧
  State.reset.nextAddr = 0 ∧ State.reset.dev.capClass = .standard ∧ State.reset.dev.legacy = false ∧
  State.reset.dev.usableCapacity = 0 ∧ State.reset.dev.status.word = 0 ∧ State.reset.dev.status.ok = false ∧
  State.reset.dev.status.timeoutCount = 0 ∧ State.reset.busAsserted = false ∧ State.reset.trace = [] ∧
  hostRead State.reset .r1 = .fault .noValue ∧ hostRead State.reset .answered = .fault .noValue ∧
  ∀ i, hostRead State.reset (.xbuf i) = .fault .noValue

/-- R34, R250, R251, R20: a reset input abandons any operation, appends no event, and leaves the values of reset. That
one input is one whole activation of the reset, and that the configuration, the environment, the host's buffer and its
later inputs stay because they are not the block's, is the model's (log entry 19, DEDUCED). -/
def Obligations.AResetInputAbandonsTheOperation : Prop :=
  ∀ (s : State) (rest : List Arrival), s.inputs = ⟨0, .reset⟩ :: rest →
    ∃ t, step s = .next t ∧ t.st = .idle ∧ t.done = false ∧ t.resOk = false ∧ t.nextAddr = 0 ∧
      t.dev = DeviceHandle.defaults ∧ t.busAsserted = false ∧ t.trace = [] ∧ t.xbuf = [] ∧ t.csd = [] ∧
      t.framed = false ∧ t.inputs = rest ∧ SameSurroundings s t

/-- R31, R35, R263: the host writes one byte of its payload buffer, whatever the block is doing; no other byte and
nothing of the block changes. -/
def Obligations.AHostWriteChangesOneByte : Prop :=
  ∀ (s : State) (i : BitVec 9) (x : Byte) (rest : List Arrival), Memory.wf s.mem →
    s.inputs = ⟨0, .poke i x⟩ :: rest →
    ∃ t, step s = .next t ∧ (∀ a, memRead t a = if a = i then x else memRead s a) ∧
      t = { s with mem := t.mem, inputs := rest, done := false }

/-- R29, R30, R33, R35, R255: what the host reads. `busy`, `done` and `bus_asserted` are current at any time; while the
block is busy any other place reads as a free value (log entry 7); an idle block shows every result as it stands, and a
place that holds no value is a fault. -/
def Obligations.AnIdleBlockShowsItsResults : Prop :=
  (∀ s : State,
    hostRead s .busy = .next (if s.st = .idle then 0 else 1) ∧
    hostRead s .done = .next (if s.done = true then 1 else 0) ∧
    hostRead s .busAsserted = .next (if s.busAsserted = true then 1 else 0)) ∧
  (∀ (s : State) (r : HostReg), s.st ≠ .idle → r ≠ .busy → r ≠ .done → r ≠ .busAsserted →
    hostRead s r = .next (Config.unsettledRead r.number s.trace.length)) ∧
  ∀ s : State, s.st = .idle →
    hostRead s .resOk = .next (if s.resOk = true then 1 else 0) ∧
    hostRead s .nextAddr = .next s.nextAddr ∧
    hostRead s .capClass = .next (if s.dev.capClass = .high then 1 else 0) ∧
    hostRead s .legacy = .next (if s.dev.legacy = true then 1 else 0) ∧
    hostRead s .usableCapacity = .next s.dev.usableCapacity ∧
    hostRead s .statusWord = .next (s.dev.status.word.setWidth 32) ∧
    hostRead s .timeoutCount = .next (s.dev.status.timeoutCount.setWidth 32) ∧
    (∀ i, i < s.xbuf.length → ∃ x, s.xbuf[i]? = some x ∧ hostRead s (.xbuf i) = .next (x.setWidth 32)) ∧
    (∀ i, s.xbuf.length ≤ i → hostRead s (.xbuf i) = .fault .noValue) ∧
    (s.framed = false → hostRead s .r1 = .fault .noValue ∧ hostRead s .answered = .fault .noValue) ∧
    (s.framed = true → hostRead s .r1 = .next (s.r1.setWidth 32) ∧
      hostRead s .answered = .next (if s.answered = true then 1 else 0))

/-- R237: the eleven faults are ordinary results. A step stops only on a start with a malformed frame word. That such a
word is refused is the model's (log entry 1), and that a refused host start, which R237 counts among the refusals, is a
next state with the effect of R89 is the model's too (log entry 14). -/
def Obligations.AStepStopsOnlyOnAMalformedFrame : Prop :=
  ∀ s : State, (∀ r, step s ≠ .fault r) ∧
    (∀ r, step s = .refused r → s.st = .idle ∧ ∃ (n : Nat) (w : BitVec 57) (rest : List Arrival) (e : DecodeError),
      s.inputs = ⟨n, .start (.frame w)⟩ :: rest ∧ decode (.frame w) = .error e)

/-! ### The framer -/

/-- R110 for `CMD`, and R84, R85 for the ten wire commands: from rest each of them completes, and the next state is
that of `TransmitCommand` with the row's index, argument and `extra`, its result in `res_ok`. That the host runs a
`FRAME48` row as a `CMD` of that row is the model's (log entry 11). -/
def Obligations.CmdAndWireCommandsAreTransmitCommand : Prop :=
  ∀ s : State, s.AtRest →
    (∀ idx arg extra dbg, ¬ extraRefused s.cfg extra →
      exec (.cmd idx arg extra dbg) s = .next (returnCmd (transmit idx arg extra (s.startOp 0b01 dbg)))) ∧
    (∀ idx arg crc extra dbg, ¬ extraRefused s.cfg extra →
      exec (.frame idx arg crc extra dbg) s = .next (returnCmd (transmit idx arg extra (s.startOp 0b01 dbg)))) ∧
    (∀ dbg, exec (.goIdleState dbg) s =
      .next (returnCmd (transmit s.cfg.idxGoIdleState 0 0 (s.startOp 0b01 dbg)))) ∧
    (∀ dbg, ¬ extraRefused s.cfg s.cfg.respExtra → exec (.sendIfCond dbg) s = .next (returnCmd
      (transmit s.cfg.idxSendIfCond s.cfg.ifCondPattern s.cfg.respExtra (s.startOp 0b01 dbg)))) ∧
    (∀ crc dbg, exec (.sendOpCondHcs crc dbg) s =
      .next (returnCmd (transmit s.cfg.idxSendOpCond s.cfg.hcsArg 0 (s.startOp 0b01 dbg)))) ∧
    (∀ crc dbg, exec (.sendOpCondLegacy crc dbg) s =
      .next (returnCmd (transmit s.cfg.idxSendOpCond 0 0 (s.startOp 0b01 dbg)))) ∧
    (∀ crc dbg, ¬ extraRefused s.cfg s.cfg.respExtra → exec (.readOcr crc dbg) s =
      .next (returnCmd (transmit s.cfg.idxReadOcr 0 s.cfg.respExtra (s.startOp 0b01 dbg)))) ∧
    (∀ crc dbg, exec (.sendCsd crc dbg) s =
      .next (returnCmd (transmit s.cfg.idxSendCsd 0 0xFF (s.startOp 0b01 dbg)))) ∧
    (∀ crc dbg, exec (.crcOnOff crc dbg) s =
      .next (returnCmd (transmit s.cfg.idxCrcOnOff 0 0 (s.startOp 0b01 dbg)))) ∧
    (∀ crc dbg, exec (.setBlocklen crc dbg) s =
      .next (returnCmd (transmit s.cfg.idxSetBlocklen s.cfg.blocklenArg 0 (s.startOp 0b01 dbg)))) ∧
    (∀ arg crc dbg, exec (.writeSingleBlock arg crc dbg) s =
      .next (returnCmd (transmit s.cfg.idxWriteSingleBlock arg 0xFF (s.startOp 0b01 dbg))))

/-- R111 to R113, R115 to R118: a device that answers `FILLER` `k` times and then another byte. The events are one
`ASSERT`, the six frame bytes, `k + 1` polls, the extra bytes, and for `extra >= 0` the cleanup and one `RELEASE`; the
token, the extra bytes and the bus state are the results. -/
def Obligations.AnAnsweredCmd : Prop :=
  ∀ (s : State) (idx : BitVec 6) (arg : Word32) (extra : Byte) (dbg : Bool) (k : Nat),
    s.AtRest → ¬ extraRefused s.cfg extra → k < s.cfg.cmdRetry.toNat →
    (∀ j, j < k → s.env.xfer.nth (6 + j) = s.cfg.filler) → s.env.xfer.nth (6 + k) ≠ s.cfg.filler →
    ∃ t, exec (.cmd idx arg extra dbg) s = .next t ∧
      t.r1 = s.env.xfer.nth (6 + k) ∧ t.answered = true ∧ t.resOk = true ∧ t.done = true ∧ t.st = .idle ∧
      t.xbuf = received s.env.xfer (7 + k) (extraCount extra) ∧
      t.busAsserted = decide (extraNegative extra) ∧
      t.trace.reverse = s.trace.reverse ++ (.assert :: exchange s.env.xfer dbg 0
        ((buildFrame s.cfg idx arg).toList ++
          List.replicate (k + 1 + extraCount extra + if extraNegative extra then 0 else 1) s.cfg.filler)) ++
        (if extraNegative extra then [] else [.release])

/-- R114, R116, R117: a device that answers `FILLER` to every poll. No extra byte is read; the tail is that of an
answered command; with the default bound the call issues 263 events, or 261 for `extra < 0`. -/
def Obligations.AnUnansweredCmd : Prop :=
  ∀ (s : State) (idx : BitVec 6) (arg : Word32) (extra : Byte) (dbg : Bool),
    s.AtRest → ¬ extraRefused s.cfg extra →
    (∀ j, j < s.cfg.cmdRetry.toNat → s.env.xfer.nth (6 + j) = s.cfg.filler) →
    ∃ t, exec (.cmd idx arg extra dbg) s = .next t ∧
      t.r1 = s.cfg.filler ∧ t.answered = false ∧ t.resOk = false ∧ t.xbuf = [] ∧ t.done = true ∧ t.st = .idle ∧
      t.busAsserted = decide (extraNegative extra) ∧
      t.trace.reverse = s.trace.reverse ++ (.assert :: exchange s.env.xfer dbg 0
        ((buildFrame s.cfg idx arg).toList ++
          List.replicate (s.cfg.cmdRetry.toNat + if extraNegative extra then 0 else 1) s.cfg.filler)) ++
        (if extraNegative extra then [] else [.release]) ∧
      (s.cfg.cmdRetry = 254 → t.trace.length = s.trace.length + if extraNegative extra then 261 else 263)

/-- R122: a call issues at most `1 + 6 + CMD_RETRY + max(extra,0) + 2` events and returns; with the defaults and
`extra = 4` at most 267. The first clause is about every call of `TransmitCommand`, the second about `CMD`. -/
def Obligations.ACmdIssuesABoundedNumberOfEvents : Prop :=
  (∀ (s : State) (idx : BitVec 6) (arg : Word32) (extra : Byte), (transmit idx arg extra s).trace.length ≤
    s.trace.length + (1 + 6 + s.cfg.cmdRetry.toNat + extra.toInt.toNat + 2)) ∧
  ∀ (s : State) (idx : BitVec 6) (arg : Word32) (extra : Byte) (dbg : Bool), s.AtRest → ¬ extraRefused s.cfg extra →
    ∃ t, exec (.cmd idx arg extra dbg) s = .next t ∧ t.st = .idle ∧
      t.trace.length ≤ s.trace.length + (1 + 6 + s.cfg.cmdRetry.toNat + extra.toInt.toNat + 2) ∧
      (s.cfg = Config.standard → extra = 4 → t.trace.length ≤ s.trace.length + 267)

/-- R123, R35: the framer reads and writes nothing of `dev`: whatever the handle holds, every call leaves it and does
the same, and so does `CMD`. -/
def Obligations.TheFramerReadsAndWritesNothingOfDev : Prop :=
  (∀ (s : State) (d : DeviceHandle) (idx : BitVec 6) (arg : Word32) (extra : Byte),
    (transmit idx arg extra s).dev = s.dev ∧
    transmit idx arg extra (s.setDev d) = (transmit idx arg extra s).setDev d) ∧
  ∀ (s : State) (d : DeviceHandle) (idx : BitVec 6) (arg : Word32) (extra : Byte) (dbg : Bool),
    s.AtRest → ¬ extraRefused s.cfg extra →
    ∃ t, exec (.cmd idx arg extra dbg) s = .next t ∧ t.dev = s.dev ∧
      exec (.cmd idx arg extra dbg) (s.setDev d) = .next (t.setDev d)

/-- R113, R30, R35: `answered = 1` implies `r1 != FILLER`, `answered = 0` implies `r1 = FILLER`, and `res_ok = answered`;
and the frame of `CMD` and, since they are `CMD`s (log entry 11), of the wire commands: `dev`, `next_addr`,
`sector`, `cnt`, `echo`, `b`, `csd`, the configuration, the later inputs and every byte of memory stay. The operands are
latched in `op`, `idx`, `arg`, `extra`, `dbg`. -/
def Obligations.WhatACmdLeavesUnchanged : Prop :=
  ∀ (s t : State) (idx : BitVec 6) (arg : Word32) (extra : Byte) (dbg : Bool), s.AtRest →
    ¬ extraRefused s.cfg extra → exec (.cmd idx arg extra dbg) s = .next t →
    t.dev = s.dev ∧ t.nextAddr = s.nextAddr ∧ t.sector = s.sector ∧ t.cnt = s.cnt ∧ t.echo = s.echo ∧ t.b = s.b ∧
      t.csd = s.csd ∧ t.cfg = s.cfg ∧ t.inputs = s.inputs ∧ (∀ a, memRead t a = memRead s a) ∧
      t.env.present = s.env.present ∧ t.env.writeProt = s.env.writeProt ∧
      t.framed = true ∧ t.resOk = t.answered ∧ (t.answered = true ↔ t.r1 ≠ s.cfg.filler) ∧
      t.op = 0b01 ∧ t.idx = idx ∧ t.arg = arg ∧ t.extra = extra ∧ t.dbg = dbg ∧ t.f = buildFrame s.cfg idx arg

/-- R89, R121, D3: a start of `CMD` with `extra > XBUF_MAX` is refused: no event, `done` pulses, `res_ok = 0`, nothing
else. That this effect is a next state, where R237 and U23 speak of a refusal without state change, is the model's (log
entry 14); that a `FRAME48` row runs as a `CMD` of its row, so that `FRAME` with such an `extra`, and `SEND_IF_COND` and
`READ_OCR` where `RESP_EXTRA` is above `XBUF_MAX`, are refused alike, is the model's too (log entries 11 and 24). -/
def Obligations.TooManyExtraBytesAreRefused : Prop :=
  ∀ (s : State) (dbg : Bool), s.st = .idle →
    (∀ (idx : BitVec 6) (arg : Word32) (crc : BitVec 7) (extra : Byte), (s.cfg.xbufMax : Int) < extra.toInt →
      exec (.cmd idx arg extra dbg) s = .next { s with done := true, resOk := false } ∧
      exec (.frame idx arg crc extra dbg) s = .next { s with done := true, resOk := false }) ∧
    (∀ crc : BitVec 7, (s.cfg.xbufMax : Int) < s.cfg.respExtra.toInt →
      exec (.sendIfCond dbg) s = .next { s with done := true, resOk := false } ∧
      exec (.readOcr crc dbg) s = .next { s with done := true, resOk := false })

/-- R119: `dbg` "appears as the tag of each `XFER` event and changes nothing else": two runs of any instruction that
differ in `dbg` alone end in states that differ in the debug selection and the tags alone, and every `XFER` of the
operation carries the tag. -/
def Obligations.DebugSelectionIsOnlyATag : Prop :=
  ∀ (s : State) (i : Instr) (dbg : Bool), s.AtRest →
    ∃ t u l, exec (i.withDebug dbg) s = .next t ∧ exec (i.withDebug !dbg) s = .next u ∧ t.untagged = u.untagged ∧
      t.trace = l ++ s.trace ∧ allTagged dbg l

/-- R89, U24: `NOP` does nothing, in any state. -/
def Obligations.NopChangesNothing : Prop := ∀ s : State, exec .nop s = .next s

/-! ### Negotiation -/

/-- R140: from rest `INIT` completes, and the next state is that of `Negotiate` as the rule writes it. -/
def Obligations.InitIsNegotiate : Prop :=
  ∀ (s : State) (dbg : Bool), s.AtRest → exec (.init dbg) s = .next (negotiate (s.startOp 0b10 dbg))

/-- R141, R142: `INIT` begins with the power cycle: the first five events are `PWR_OFF`, `DELAY(T_OFF_MS)`, `PWR_ON`,
`DELAY(T_ON_MS)`, `SENSE_PRESENT`, and no later event of it is a power event. -/
def Obligations.InitBeginsWithThePowerCycle : Prop :=
  ∀ (s : State) (dbg : Bool), s.AtRest → ∃ (t : State) (l : List Event), exec (.init dbg) s = .next t ∧
    t.trace.reverse = s.trace.reverse ++
      [.pwrOff, .delay s.cfg.tOffMs, .pwrOn, .delay s.cfg.tOnMs, .sensePresent (s.env.present.nth 0)] ++ l ∧
    .pwrOff ∉ l ∧ .pwrOn ∉ l ∧ ∀ b, .sensePresent b ∉ l

/-- R143: an absent device and a protected device: the exact trace, the flag, the timeout counter and every other
field of `dev` at its default, and the bus as it was. -/
def Obligations.AbsentAndProtectedDevicesEndInit : Prop :=
  ∀ (s : State) (dbg : Bool), s.AtRest →
    (s.env.present.nth 0 = false → ∃ t, exec (.init dbg) s = .next t ∧
      t.trace.reverse = s.trace.reverse ++
        [.pwrOff, .delay s.cfg.tOffMs, .pwrOn, .delay s.cfg.tOnMs, .sensePresent false] ∧
      t.dev = DeviceHandle.defaults.withStatus (StatusRecord.defaults.raise .noCard) ∧
      t.busAsserted = s.busAsserted ∧ t.resOk = false ∧ t.done = true ∧ t.env.writeProt = s.env.writeProt) ∧
    (s.env.present.nth 0 = true → s.env.writeProt.nth 0 = true → ∃ t, exec (.init dbg) s = .next t ∧
      t.trace.reverse = s.trace.reverse ++
        [.pwrOff, .delay s.cfg.tOffMs, .pwrOn, .delay s.cfg.tOnMs, .sensePresent true, .senseWp true] ∧
      t.dev = DeviceHandle.defaults.withStatus (StatusRecord.defaults.raise .writeProtected) ∧
      t.busAsserted = s.busAsserted ∧ t.resOk = false ∧ t.done = true)

/-- R222, R145: a silent device that is sensed present ends `INIT` with `idle_failed` alone, after the priming of R144
and the polls of one unanswered command. -/
def Obligations.ASilentDeviceEndsInitWithIdleFailed : Prop :=
  ∀ (s : State) (dbg : Bool), s.AtRest → s.env.present.nth 0 = true → s.env.writeProt.nth 0 = false →
    (∀ k, s.env.xfer.nth k = s.cfg.filler) →
    ∃ t, exec (.init dbg) s = .next t ∧
      t.dev = DeviceHandle.defaults.withStatus (StatusRecord.defaults.raise .idleFailed) ∧ t.resOk = false ∧
      t.busAsserted = false ∧ t.trace.length = s.trace.length + 17 + s.cfg.primeBytes + s.cfg.cmdRetry.toNat

/-- R25, R224: after any `INIT` at most one of bits 0 to 7 is 1, bits 8 to 10 are 0, and, under the default
`V1_POLICY`, `ok` is 1 if and only if none of bits 0 to 7 is; under the other policy `ok` still excludes them. -/
def Obligations.StatusAfterAnyInit : Prop :=
  ∀ (s t : State) (dbg : Bool), s.AtRest → exec (.init dbg) s = .next t →
    t.dev.status.fatalCount ≤ 1 ∧ t.dev.status.noWriteFlag ∧ t.resOk = t.dev.status.ok ∧
    (t.dev.status.ok = true → t.dev.status.fatalCount = 0) ∧
    (s.cfg.v1Policy = .legacyBranch → t.dev.status.fatalCount = 0 → t.dev.status.ok = true)

/-- R161: `legacy`, `cap_class`, `usable_capacity` and `bus_asserted` at each return of `INIT`, by the flag set, and what
R26 leaves in `timeout_count`. The number `RESP_EXTRA` of extra bytes is not negative (R7: 4), so that the framer
releases the bus. "As set" on the high-capacity branch is bit 6 of the byte that came first after the token of
`READ_OCR`: the byte with which the transfers begin that stand just before the change to the medium rate (there is one
in an `INIT`). "Decoded" is the decode of the record: the bytes after the data-start token, of the transfers that stand
just before the last two framed commands. That `cap_class` stays as set after `csd_timeout` and `csd_token_missing` is
the model's choice: it follows R161, R225 and vector N17, where R201 and R267 say `STANDARD` (log entry 25). That the
capacity at `ok` of a version-1 record with an exponent below 9 is a function of the record is the model's choice too
(log entry 8). -/
def Obligations.StateAtEachReturnOfInit : Prop :=
  ∀ (s t : State) (dbg : Bool), s.AtRest → 0 ≤ s.cfg.respExtra.toInt → exec (.init dbg) s = .next t →
    (t.dev.status.ok = false → t.dev.usableCapacity = 0) ∧
    (t.dev.status.noCard = true ∨ t.dev.status.writeProtected = true →
      t.dev.legacy = false ∧ t.dev.capClass = .standard ∧ t.dev.status.timeoutCount = 0 ∧
      t.busAsserted = s.busAsserted) ∧
    (t.dev.status.idleFailed = true →
      t.dev.legacy = false ∧ t.dev.capClass = .standard ∧ t.dev.status.timeoutCount = 0 ∧ t.busAsserted = false) ∧
    (t.dev.status.ocrTimeout = true ∨ t.dev.status.powerupNotConfirmed = true →
      t.dev.legacy = false ∧ t.dev.capClass = .standard ∧ t.busAsserted = false ∧
      (s.cfg.opcondRetry ≠ 0 → t.dev.status.timeoutCount ≠ 0 ∧ t.dev.status.timeoutCount ≤ s.cfg.opcondRetry)) ∧
    (t.dev.status.opcondTimeout = true →
      t.dev.legacy = !t.echo ∧ t.dev.capClass = .standard ∧ t.dev.status.timeoutCount = 0 ∧ t.busAsserted = false) ∧
    (t.dev.status.csdTimeout = true ∨ t.dev.status.csdTokenMissing = true →
      t.dev.legacy = !t.echo ∧ (t.dev.legacy = true → t.dev.capClass = .standard) ∧
      t.dev.status.timeoutCount = 0 ∧ t.busAsserted = false) ∧
    (t.dev.status.ok = true →
      t.dev.legacy = !t.echo ∧ (t.dev.legacy = true → t.dev.capClass = .standard) ∧ t.busAsserted = false ∧
      (s.cfg.csdTokenRetry ≠ 0 → t.dev.status.timeoutCount ≠ 0 ∧ t.dev.status.timeoutCount ≤ s.cfg.csdTokenRetry)) ∧
    (t.dev.status.ok = false → t.dev.status.fatalCount = 0 →
      s.cfg.v1Policy = .stop ∧ t.dev.legacy = true ∧ t.dev.capClass = .standard ∧ t.dev.status.timeoutCount = 0 ∧
      t.busAsserted = false) ∧
    (t.dev.status.csdTimeout = true ∨ t.dev.status.csdTokenMissing = true ∨ t.dev.status.ok = true →
      t.dev.legacy = false → 0 < s.cfg.respExtra.toInt → (∀ p ∈ s.cfg.ocrAccept, p.2 = true) →
      ∃ (before after : List Event) (k : Nat),
        t.trace.reverse = s.trace.reverse ++ before ++
          exchange s.env.xfer dbg k (List.replicate (extraCount s.cfg.respExtra + 1) s.cfg.filler) ++
          [.release, .release, .rate .medium] ++ after ∧
        (s.env.xfer.nth k).getLsbD 7 = true ∧
        (t.dev.capClass = .high ↔ (s.env.xfer.nth k).getLsbD 6 = true)) ∧
    (t.dev.status.ok = true →
      ∃ (before after : List Event) (k : Nat),
        t.trace.reverse = s.trace.reverse ++ before ++
          exchange s.env.xfer dbg k (List.replicate (s.cfg.csdLen + 2) s.cfg.filler) ++ [.release] ++ after ∧
        after.count .assert = 2 ∧ s.env.xfer.nth k = s.cfg.tokenStart ∧
        t.dev.usableCapacity = decodeCapacity (received s.env.xfer (k + 1) s.cfg.csdLen))

/-- R68: in every `INIT` started with the bus released, every `RATE` event occurs while the computed bus state is
released. -/
def Obligations.RatesChangeOnlyWhileReleased : Prop :=
  ∀ (s : State) (dbg : Bool), s.AtRest → busOf s.trace = false → ratesReleased s.trace →
    ∃ t, exec (.init dbg) s = .next t ∧ ratesReleased t.trace

/-- R163: the behaviour of `INIT` "is a function of `dbg`, the configuration, and the environment's answers alone". -/
def Obligations.InitDependsOnNothingOld : Prop :=
  ∀ (s u : State) (dbg : Bool), s.AtRest → u.AtRest → s.cfg = u.cfg → s.env = u.env →
    ∃ (s' u' : State) (l : List Event), exec (.init dbg) s = .next s' ∧ exec (.init dbg) u = .next u' ∧
      s'.dev = u'.dev ∧ s'.resOk = u'.resOk ∧ s'.env = u'.env ∧ s'.trace = l ++ s.trace ∧ u'.trace = l ++ u.trace

/-- R30, R35, R90: the frame of `INIT`: `next_addr`, `sector`, the configuration, the later inputs and every byte of
memory stay; `res_ok` is `ok`. R28: no record is retained, after any return, where none was held before (as every step
keeps it in an idle block, `EveryStepKeepsTheBuffersHeld`), and after a successful return in any case. -/
def Obligations.WhatInitLeavesUnchanged : Prop :=
  ∀ (s t : State) (dbg : Bool), s.AtRest → exec (.init dbg) s = .next t →
    t.nextAddr = s.nextAddr ∧ t.sector = s.sector ∧ t.cfg = s.cfg ∧ t.inputs = s.inputs ∧
      (∀ a, memRead t a = memRead s a) ∧ t.st = .idle ∧ t.done = true ∧ t.resOk = t.dev.status.ok ∧
      t.op = 0b10 ∧ t.dbg = dbg ∧ (HeldInv s → t.csd = []) ∧ (t.dev.status.ok = true → t.csd = [])

/-- R146: the judgement of step 5 and its three cases; no flag is set and no event is issued. -/
def Obligations.StepFiveHasThreeCases : Prop :=
  ∀ s : State, s.st = .judge .n5IfCond → s.cfg = Config.standard →
    (tick s).cnt = 200 ∧ (tick s).dev.status = s.dev.status ∧ (tick s).trace = s.trace ∧ (tick s).idx = 1 ∧
    (s.answered = false ∨ s.r1 ≠ 0x01 → (tick s).st = .framer .n7OpcondLegacy .assert ∧ (tick s).arg = 0 ∧
      (tick s).echo = false ∧ (tick s).dev.legacy = true) ∧
    (s.answered = true → s.r1 = 0x01 → ∀ x2 x3, s.xbuf[2]? = some x2 → s.xbuf[3]? = some x3 →
      (x2 = 0x01 → x3 = 0xAA → (tick s).st = .framer .n6OpcondHc .assert ∧ (tick s).arg = 0x40000000 ∧
        (tick s).echo = true ∧ (tick s).dev.legacy = s.dev.legacy) ∧
      (x2 ≠ 0x01 ∨ x3 ≠ 0xAA → (tick s).st = .framer .n7OpcondLegacy .assert ∧ (tick s).arg = 0 ∧
        (tick s).echo = false ∧ (tick s).dev.legacy = true))

/-- R147, R150, R120: one attempt of step 6 or 7. Ready is `answered = 1` and the idle bit clear; then
`timeout_count <- cnt`. A failed attempt costs one; the last one ends in `opcond_timeout`. -/
def Obligations.AnOpcondAttempt : Prop :=
  ∀ (s : State) (c : Caller), (c = .n6OpcondHc ∨ c = .n7OpcondLegacy) → s.st = .judge c →
    (s.answered = true → s.r1 &&& s.cfg.r1IdleBit = 0 →
      (tick s).dev.status.timeoutCount = s.cnt ∧
      (c = .n6OpcondHc → (tick s).st = .framer .n6Ocr .assert ∧ (tick s).idx = s.cfg.idxReadOcr ∧
        (tick s).arg = 0 ∧ (tick s).extra = s.cfg.respExtra) ∧
      (c = .n7OpcondLegacy → (tick s).st = .n8Release ∧ (tick s).dev.capClass = .standard)) ∧
    (s.answered = false ∨ s.r1 &&& s.cfg.r1IdleBit ≠ 0 →
      (tick s).cnt = s.cnt - 1 ∧ (tick s).trace = s.trace ∧
      (s.cnt = 1 → (tick s).st = .idle ∧ (tick s).dev.status.opcondTimeout = true ∧
        (tick s).dev.status.timeoutCount = 0 ∧ (tick s).resOk = false) ∧
      (s.cnt ≠ 1 → (tick s).st = .framer c .assert ∧ (tick s).dev = s.dev ∧ (tick s).idx = s.cfg.idxSendOpCond ∧
        (tick s).arg = if c = .n6OpcondHc then s.cfg.hcsArg else 0))

/-- R152: one attempt of `SEND_CSD`. Accepted is `answered = 1 and r1 = R1_ACCEPTED`. After a failed attempt that is not
the last, `Release(); Assert()` and the next; after the last, `csd_timeout` and one `Release()`. -/
def Obligations.ASendCsdAttempt : Prop :=
  ∀ s : State, s.st = .judge .n9CsdCmd →
    (s.answered = true → s.r1 = s.cfg.r1Accepted →
      (tick s).st = .n9CsdToken ∧ (tick s).dev.status.timeoutCount = s.cnt ∧ (tick s).cnt = s.cfg.csdTokenRetry ∧
      (tick s).trace = s.trace) ∧
    (s.answered = false ∨ s.r1 ≠ s.cfg.r1Accepted →
      (s.cnt = 1 → (tick s).st = .idle ∧ (tick s).dev.status.csdTimeout = true ∧
        (tick s).dev.status.timeoutCount = 0 ∧ (tick s).trace = .release :: s.trace ∧ (tick s).busAsserted = false) ∧
      (s.cnt ≠ 1 → (tick (tick (tick s))).st = .framer .n9CsdCmd .assert ∧
        (tick (tick (tick s))).trace = .assert :: .release :: s.trace ∧ (tick (tick (tick s))).cnt = s.cnt - 1 ∧
        (tick (tick (tick s))).dev = s.dev))

/-- R153, R154, R8: one poll for the data-start token, one transfer and then its judgement: it succeeds iff the input
equals `TOKEN_START`. -/
def Obligations.ATokenPoll : Prop :=
  ∀ s : State, s.st = .n9CsdToken →
    ((tick s).st = .n9CsdJudge ∧ (tick s).dev = s.dev ∧ (tick s).cnt = s.cnt ∧
      (tick s).trace = .xfer s.cfg.filler (s.env.xfer.nth 0) s.dbg :: s.trace) ∧
    (s.env.xfer.nth 0 = s.cfg.tokenStart →
      (tick (tick s)).st = (if 0 < s.cfg.csdLen then .n9CsdData 0 else .n9CsdClean) ∧
      (tick (tick s)).dev.status.timeoutCount = s.cnt ∧ (tick (tick s)).csd = [] ∧
      (tick (tick s)).trace = (tick s).trace) ∧
    (s.env.xfer.nth 0 ≠ s.cfg.tokenStart →
      (tick (tick s)).cnt = s.cnt - 1 ∧
      (s.cnt = 1 → (tick (tick s)).st = .idle ∧ (tick (tick s)).dev.status.csdTokenMissing = true ∧
        (tick (tick s)).dev.status.timeoutCount = 0 ∧ (tick (tick s)).trace = .release :: (tick s).trace ∧
        (tick (tick s)).busAsserted = false) ∧
      (s.cnt ≠ 1 → (tick (tick s)).st = .n9CsdToken ∧ (tick (tick s)).dev = s.dev ∧
        (tick (tick s)).trace = (tick s).trace))

/-! ### Capacity decode -/

/-- R182, R183: a record whose top two bits of byte 0 are not 00 is of version 2, and its capacity is exact:
`(size + 1) * 1024 - 1` for the 22-bit field of bytes 7, 8, 9. -/
def Obligations.VersionTwoCapacity : Prop :=
  ∀ csd : List Byte, csd.length = 17 → 64 ≤ (heldAt csd 0).toNat →
    (decodeCapacity csd).toNat =
      ((heldAt csd 7).toNat % 64 * 65536 + (heldAt csd 8).toNat * 256 + (heldAt csd 9).toNat + 1) * 1024 - 1

/-- R182, R184 to R187, R190: a version-1 record with exponent 9 or more: `(size + 1) * 2^(mult + 2 + exp - 9) - 1`,
exact, the fields taken from bytes 5 to 10. -/
def Obligations.VersionOneCapacity : Prop :=
  ∀ csd : List Byte, csd.length = 17 → (heldAt csd 0).toNat < 64 → 9 ≤ (heldAt csd 5).toNat % 16 →
    (decodeCapacity csd).toNat =
      ((heldAt csd 6).toNat % 4 * 1024 + (heldAt csd 7).toNat * 4 + (heldAt csd 8).toNat / 64 + 1) *
        2 ^ ((heldAt csd 9).toNat % 4 * 2 + (heldAt csd 10).toNat / 128 + 2 + ((heldAt csd 5).toNat % 16 - 9)) - 1

/-- R191: a version-1 record with an exponent below 9 gives an unspecified value: the free value of log entry 8, a
function of the bytes the decode reads, and `INIT` goes on: the decode takes no flag and no event. -/
def Obligations.LowExponentCapacityIsFree : Prop :=
  ∀ s : State, (heldAt s.csd 0).toNat < 64 → (heldAt s.csd 5).toNat % 16 < 9 →
    (storeCapacity s).dev.usableCapacity = Config.lowExponentCapacity
      [heldAt s.csd 0, heldAt s.csd 5, heldAt s.csd 6, heldAt s.csd 7, heldAt s.csd 8, heldAt s.csd 9, heldAt s.csd 10] ∧
    (storeCapacity s).dev.status = s.dev.status ∧ (storeCapacity s).trace = s.trace

/-- R189: "The decode reads `csd[0]`, `csd[5]` to `csd[10]` and nothing else". That this holds in the unspecified case of
R191 too (exponent below 9), which vector group E2 excepts from purity, is the model's choice: the free value is drawn as
a function of those bytes (log entry 8). -/
def Obligations.CapacityDependsOnTheReadBytesOnly : Prop :=
  ∀ a b : List Byte, (∀ k, k = 0 ∨ (5 ≤ k ∧ k ≤ 10) → a[k]? = b[k]?) → decodeCapacity a = decodeCapacity b

/-- R180, R181: the two OCR bits, on the rules' own examples and as bits of the byte. R148, R149: the judgement of the
OCR read, which records the class. -/
def Obligations.OcrBitsAreBitsSevenAndSix : Prop :=
  (∀ x : Byte, (ocrPoweredUp x = true ↔ 128 ≤ x.toNat) ∧
    (CapClass.ofBit (ocrHighCapacity x) = .high ↔ x.toNat / 64 % 2 = 1)) ∧
  ocrPoweredUp 0xC0 = true ∧ ocrPoweredUp 0x80 = true ∧ ocrPoweredUp 0x40 = false ∧ ocrPoweredUp 0x00 = false ∧
  CapClass.ofBit (ocrHighCapacity 0xC0) = .high ∧ CapClass.ofBit (ocrHighCapacity 0x80) = .standard ∧
  ∀ s : State, s.st = .judge .n6Ocr → s.cfg = Config.standard →
    (s.answered = false ∨ s.r1 ≠ 0x00 → (tick s).st = .idle ∧ (tick s).dev.status.ocrTimeout = true ∧
      (tick s).dev.capClass = s.dev.capClass ∧ (tick s).trace = s.trace) ∧
    (s.answered = true → s.r1 = 0x00 → ∀ x, s.xbuf[0]? = some x →
      (x.toNat < 128 → (tick s).st = .idle ∧ (tick s).dev.status.powerupNotConfirmed = true ∧
        (tick s).dev.capClass = s.dev.capClass ∧ (tick s).trace = s.trace) ∧
      (128 ≤ x.toNat → (tick s).st = .n8Release ∧ (tick s).dev.status = s.dev.status ∧
        ((tick s).dev.capClass = .high ↔ x.toNat / 64 % 2 = 1) ∧ (tick s).trace = s.trace))

/-! ### The writer -/

/-- R200: from rest `WRITE` completes, and the next state is that of `WriteBlock` as the rule writes it. -/
def Obligations.WriteIsWriteBlock : Prop :=
  ∀ (s : State) (sector : Word32) (dbg : Bool), s.AtRest →
    exec (.write sector dbg) s = .next (writeBlock sector (s.startOp 0b11 dbg))

/-- R66, R201, R202: the argument of the write command: the sector for a high-capacity device, `sector * 512` modulo
`2^32` for a standard one; the frame with it is the first thing sent. -/
def Obligations.WriteScalesTheAddressByTheClass : Prop :=
  ∀ (s : State) (sector : Word32) (dbg : Bool), s.AtRest →
    ∃ (t : State) (l : List Event) (arg : Word32), exec (.write sector dbg) s = .next t ∧
      (s.dev.capClass = .high → arg = sector) ∧
      (s.dev.capClass = .standard → arg.toNat = sector.toNat * 512 % 2 ^ 32) ∧
      t.arg = arg ∧ t.idx = s.cfg.idxWriteSingleBlock ∧ t.extra = 0xFF ∧ t.sector = sector ∧
      t.trace.reverse = s.trace.reverse ++ (.assert :: exchange s.env.xfer dbg 0
        (buildFrame s.cfg s.cfg.idxWriteSingleBlock arg).toList) ++ l

/-- R203: a write command that is answered by a byte other than `R1_ACCEPTED`, or by no byte but `FILLER`: nothing is
sent after the token; one `RELEASE`; `write_cmd_rejected`; `(0, 0)`. -/
def Obligations.ARejectedWriteCommandSendsNoData : Prop :=
  ∀ (s : State) (sector : Word32) (dbg : Bool) (polls : Nat), s.AtRest →
    ((∃ k, polls = k + 1 ∧ k < s.cfg.cmdRetry.toNat ∧ (∀ j, j < k → s.env.xfer.nth (6 + j) = s.cfg.filler) ∧
        s.env.xfer.nth (6 + k) ≠ s.cfg.filler ∧ s.env.xfer.nth (6 + k) ≠ s.cfg.r1Accepted) ∨
      (polls = s.cfg.cmdRetry.toNat ∧ ∀ j, j < s.cfg.cmdRetry.toNat → s.env.xfer.nth (6 + j) = s.cfg.filler)) →
    ∃ t, exec (.write sector dbg) s = .next t ∧ t.resOk = false ∧ t.nextAddr = 0 ∧ t.busAsserted = false ∧
      t.dev = s.dev.withStatus (s.dev.status.raise .writeCmdRejected) ∧
      t.trace.reverse = s.trace.reverse ++ (.assert :: exchange s.env.xfer dbg 0
        ((buildFrame s.cfg s.cfg.idxWriteSingleBlock (writeArg s.dev.capClass.isHigh sector)).toList ++
          List.replicate polls s.cfg.filler)) ++ [.release]

/-- R203 to R207, R212: a write that the device accepts, with `z` busy bytes: the payload is sent in ascending order
between the token and the two stand-in bytes; `timeout_count` is the number of attempts left; `(1, sector + 1)`. -/
def Obligations.AnAcceptedWrite : Prop :=
  ∀ (s : State) (sector : Word32) (dbg : Bool) (k z : Nat), s.AtRest → s.cfg = Config.standard → k < 254 → z < 65535 →
    (∀ j, j < k → s.env.xfer.nth (6 + j) = 0xFF) → s.env.xfer.nth (6 + k) = 0x00 →
    s.env.xfer.nth (522 + k) &&& 0x0F = 0x05 →
    (∀ j, j < z → s.env.xfer.nth (523 + k + j) = 0x00) → s.env.xfer.nth (523 + k + z) ≠ 0x00 →
    ∃ t, exec (.write sector dbg) s = .next t ∧ t.resOk = true ∧ t.nextAddr = sector + 1 ∧ t.done = true ∧
      t.busAsserted = false ∧ t.dev = s.dev.withStatus (s.dev.status.withTimeoutCount (65535 - BitVec.ofNat 16 z)) ∧
      t.trace.reverse = s.trace.reverse ++ (.assert :: exchange s.env.xfer dbg 0
        ((buildFrame s.cfg 24 (writeArg s.dev.capClass.isHigh sector)).toList ++ List.replicate (k + 1) 0xFF ++ [0xFE] ++
          (List.range 512).map (fun i => memRead s (BitVec.ofNat 9 i)) ++
          List.replicate (2 + 1 + (z + 1) + 1) 0xFF)) ++ [.release]

/-- R205: the one data-response byte is accepted iff `(b & 0x0F) = 0x05`; otherwise `write_data_rejected`, one
`Release()`, `(0, 0)`. R206: one busy poll succeeds iff the input is not `0x00`; the last failed one ends in
`write_timeout`. R8: the transfer is one step and the judgement of its byte the next. -/
def Obligations.DataResponseAndBusyPoll : Prop :=
  ∀ s : State, s.cfg = Config.standard →
    (s.st = .wResp ∨ s.st = .wBusy →
      (tick s).dev = s.dev ∧ (tick s).cnt = s.cnt ∧
      (tick s).trace = .xfer 0xFF (s.env.xfer.nth 0) s.dbg :: s.trace) ∧
    (s.st = .wResp → (s.env.xfer.nth 0).toNat % 16 = 5 →
      (tick (tick s)).st = .wBusy ∧ (tick (tick s)).cnt = 65535 ∧ (tick (tick s)).dev = s.dev ∧
      (tick (tick s)).trace = (tick s).trace) ∧
    (s.st = .wResp → (s.env.xfer.nth 0).toNat % 16 ≠ 5 →
      (tick (tick s)).st = .idle ∧ (tick (tick s)).resOk = false ∧ (tick (tick s)).nextAddr = 0 ∧
      (tick (tick s)).dev.status.writeDataRejected = true ∧ (tick (tick s)).busAsserted = false ∧
      (tick (tick s)).trace = .release :: (tick s).trace) ∧
    (s.st = .wBusy → s.env.xfer.nth 0 ≠ 0x00 →
      (tick (tick s)).st = .wClean ∧ (tick (tick s)).dev.status.timeoutCount = s.cnt ∧
      (tick (tick s)).trace = (tick s).trace) ∧
    (s.st = .wBusy → s.env.xfer.nth 0 = 0x00 → s.cnt = 1 →
      (tick (tick s)).st = .idle ∧ (tick (tick s)).resOk = false ∧ (tick (tick s)).nextAddr = 0 ∧
      (tick (tick s)).dev.status.writeTimeout = true ∧ (tick (tick s)).dev.status.timeoutCount = 0 ∧
      (tick (tick s)).busAsserted = false ∧ (tick (tick s)).trace = .release :: (tick s).trace) ∧
    (s.st = .wBusy → s.env.xfer.nth 0 = 0x00 → s.cnt ≠ 1 →
      (tick (tick s)).st = .wBusy ∧ (tick (tick s)).cnt = s.cnt - 1 ∧ (tick (tick s)).dev = s.dev ∧
      (tick (tick s)).trace = (tick s).trace)

/-- R209: in every `WRITE`, whatever the environment answers, there is exactly one `ASSERT` and exactly one `RELEASE`,
and the `RELEASE` is the last event. -/
def Obligations.EveryWriteReleasesExactlyOnce : Prop :=
  ∀ (s : State) (sector : Word32) (dbg : Bool), s.AtRest →
    ∃ (t : State) (l : List Event), exec (.write sector dbg) s = .next t ∧ t.trace = .release :: (l ++ s.trace) ∧
      Event.release ∉ l ∧ l.count .assert = 1 ∧ t.busAsserted = false

/-- R210: "`WRITE` writes `dev.status.write_cmd_rejected`, `write_data_rejected`, `write_timeout` (sets only) and
`timeout_count`; it writes no other field." -/
def Obligations.WriteRecordsOnlyWriteFlags : Prop :=
  ∀ (s t : State) (sector : Word32) (dbg : Bool), s.AtRest → exec (.write sector dbg) s = .next t →
    t.dev.capClass = s.dev.capClass ∧ t.dev.legacy = s.dev.legacy ∧ t.dev.usableCapacity = s.dev.usableCapacity ∧
    t.dev.status.ok = s.dev.status.ok ∧
    (∀ e : FaultFlag, e.isWriteFault = false → t.dev.status.flag e = s.dev.status.flag e) ∧
    (∀ e : FaultFlag, s.dev.status.flag e = true → t.dev.status.flag e = true)

/-- R30, R207, R208, R220: the result of `WRITE`: `(1, sector + 1)` with every write flag as it was, or `(0, 0)` with one
of the three flags set. -/
def Obligations.TheResultOfAWrite : Prop :=
  ∀ (s t : State) (sector : Word32) (dbg : Bool), s.AtRest → exec (.write sector dbg) s = .next t →
    (t.resOk = true → t.nextAddr = sector + 1 ∧ ∀ e : FaultFlag, t.dev.status.flag e = s.dev.status.flag e) ∧
    (t.resOk = false → t.nextAddr = 0 ∧ ∃ e : FaultFlag, e.isWriteFault = true ∧ t.dev.status.flag e = true ∧
      ∀ d : FaultFlag, d ≠ e → t.dev.status.flag d = s.dev.status.flag d)

/-- R35, R65, R90: the frame of `WRITE`: `echo`, `csd`, the configuration, the sensors' answers, the later inputs and
every byte of memory stay; it stores nothing. -/
def Obligations.WhatWriteLeavesUnchanged : Prop :=
  ∀ (s t : State) (sector : Word32) (dbg : Bool), s.AtRest → exec (.write sector dbg) s = .next t →
    t.echo = s.echo ∧ t.csd = s.csd ∧ t.cfg = s.cfg ∧ t.env.present = s.env.present ∧
      t.env.writeProt = s.env.writeProt ∧ t.inputs = s.inputs ∧ (∀ a, memRead t a = memRead s a) ∧
      t.st = .idle ∧ t.done = true ∧ t.op = 0b11 ∧ t.dbg = dbg ∧ t.sector = sector

/-! ### Faults -/

/-- R225: what a fault does, in full; nothing else changes. That `cap_class` stays at `csd_timeout` and
`csd_token_missing` too is the model's choice: it follows R225, where R201 and R267 say that a failed `INIT` leaves
`STANDARD` (log entry 25). -/
def Obligations.WhatAFaultDoes : Prop :=
  ∀ (s : State) (e : FaultFlag),
    (takeFault e s).dev.status.flag e = true ∧
    (∀ d, d ≠ e → (takeFault e s).dev.status.flag d = s.dev.status.flag d) ∧
    (takeFault e s).dev.status.ok = s.dev.status.ok ∧
    (takeFault e s).dev.status.timeoutCount =
      (if e ∈ [.opcondTimeout, .csdTimeout, .csdTokenMissing, .writeTimeout] then 0 else s.dev.status.timeoutCount) ∧
    (takeFault e s).trace =
      (if e ∈ [.csdTimeout, .csdTokenMissing, .writeCmdRejected, .writeDataRejected, .writeTimeout] then
        .release :: s.trace else s.trace) ∧
    (takeFault e s).busAsserted =
      (if e ∈ [.csdTimeout, .csdTokenMissing, .writeCmdRejected, .writeDataRejected, .writeTimeout] then
        false else s.busAsserted) ∧
    (takeFault e s).nextAddr =
      (if e ∈ [.writeCmdRejected, .writeDataRejected, .writeTimeout] then 0 else s.nextAddr) ∧
    (takeFault e s).dev.legacy = s.dev.legacy ∧ (takeFault e s).dev.capClass = s.dev.capClass ∧
    (takeFault e s).dev.usableCapacity = s.dev.usableCapacity ∧
    ∃ d l b a, takeFault e s = { s with
      dev := d, trace := l, busAsserted := b, nextAddr := a, resOk := false, done := true, st := .idle }

/-- R24, R220: the code of a fault is the bit position of its flag in `status_word`, and bit 11 is `ok`. -/
def Obligations.FaultCodesAreBitPositions : Prop :=
  ∀ r : StatusRecord, (∀ e : FaultFlag, r.word.getLsbD e.code = r.flag e) ∧ r.word.getLsbD 11 = r.ok

/-- R24, R227: "A fault flag stays set until the next `INIT` starts or the block is reset". -/
def Obligations.FlagsStayUntilInitOrReset : Prop :=
  ∀ (s t : State) (e : FaultFlag), step s = .next t → s.dev.status.flag e = true → t.dev.status.flag e = false →
    ∃ (a : Arrival) (rest : List Arrival), s.inputs = a :: rest ∧
      (a.event = .reset ∨
        (s.st = .idle ∧ ∃ (w : PortWord) (dbg : Bool), a.event = .start w ∧ decode w = .ok (.init dbg)))

/-! ### The whole machine -/

/-- R31, R35: the payload buffer is read-only to the block: no instruction changes a byte of memory, in any state. -/
def Obligations.NoInstructionWritesMemory : Prop :=
  ∀ (i : Instr) (s t : State), exec i s = .next t → t.mem = s.mem ∧ ∀ a, memRead t a = memRead s a

/-- R7, R20: the configuration is a parameter: no step writes it. -/
def Obligations.TheConfigurationIsConstant : Prop :=
  ∀ s t : State, step s = .next t → t.cfg = s.cfg

/-- R8, R67: the events are totally ordered and the trace is the whole history: no instruction removes or reorders an
event; and one step of the block is at most one call to a collaborator, so at most one event. -/
def Obligations.TheTraceOnlyGrows : Prop :=
  (∀ (i : Instr) (s t : State), exec i s = .next t → ∃ l, t.trace = l ++ s.trace) ∧
  ∀ s : State, (tick s).trace = s.trace ∨ ∃ e, (tick s).trace = e :: s.trace

/-- R160, R122, R212: every operation returns, from any phase it is in, after a bounded number of events, whatever the
environment answers, provided every collaborator call returns. That every call returns is built into the model (log
entry 20, DEDUCED): the rules give the return under that premise only, and so does this statement. -/
def Obligations.EveryOperationReturns : Prop :=
  ∀ s : State, s.inputs = [] → ∃ t, step s = .next t ∧ t.st = .idle ∧
    t.trace.length ≤ s.trace.length + ticksLeft s

/-- R34: the invariants hold at reset. -/
def Obligations.TheInvariantsHoldAtReset : Prop := Inv State.reset ∧ HeldInv State.reset

/-- R25, R29, R31: every step keeps the invariant: memory in its canonical form, `bus_asserted` equal to the computed
bus state, at most one negotiation flag and never beside `ok`. -/
def Obligations.EveryStepKeepsTheInvariant : Prop :=
  ∀ s t : State, Inv s → step s = .next t → Inv t

/-- R28, R33: every step keeps what the buffers hold where a rule reads them, and that the record is held in steps 9 and
10 only: an idle block holds none. -/
def Obligations.EveryStepKeepsTheBuffersHeld : Prop :=
  ∀ s t : State, HeldInv s → step s = .next t → HeldInv t

/-- R33: "Inside the block no rule reads such an element": with the standard configuration, where step 5, step 6 and the
decode read a buffer, the element holds a value. -/
def Obligations.NoRuleReadsAnElementWithoutValue : Prop :=
  ∀ s : State, HeldInv s → s.cfg = Config.standard →
    (s.st = .judge .n5IfCond → s.answered = true → 2 < s.xbuf.length ∧ 3 < s.xbuf.length) ∧
    (s.st = .judge .n6Ocr → s.answered = true → 0 < s.xbuf.length) ∧
    (s.st = .n10Decode → ∀ k, k ≤ 10 → ∃ x, s.csd[k]? = some x ∧ heldAt s.csd k = x)
end

