-- ==== Sys2Proof/Laws/Decode.lean ====
section
/-! SUPPORT. The bits of an encoded word, and the fields the decoder reads from it. -/

namespace Sys2Proof

/-- Every bit of a frame, by the field it belongs to (R80). -/
theorem frame48_bit (idx : BitVec 6) (arg : Word32) (crc : BitVec 7) (j : Nat) :
    (frame48 idx arg crc).getLsbD j =
      if j < 1 then (1#1).getLsbD j
      else if j < 8 then crc.getLsbD (j - 1)
      else if j < 40 then arg.getLsbD (j - 8)
      else if j < 46 then idx.getLsbD (j - 40)
      else if j < 47 then (1#1).getLsbD (j - 46) else (0#1).getLsbD (j - 47) := by
  have h1 : (frame48 idx arg crc).getLsbD j = _ :=
    BitVec.getLsbD_append (x := 0#1 ++ 1#1 ++ idx ++ arg ++ crc) (y := 1#1) (i := j)
  have h2 (j) : (0#1 ++ 1#1 ++ idx ++ arg ++ crc).getLsbD j = _ :=
    BitVec.getLsbD_append (x := 0#1 ++ 1#1 ++ idx ++ arg) (y := crc) (i := j)
  have h3 (j) : (0#1 ++ 1#1 ++ idx ++ arg).getLsbD j = _ :=
    BitVec.getLsbD_append (x := 0#1 ++ 1#1 ++ idx) (y := arg) (i := j)
  have h4 (j) : (0#1 ++ 1#1 ++ idx).getLsbD j = _ :=
    BitVec.getLsbD_append (x := 0#1 ++ 1#1) (y := idx) (i := j)
  have h5 (j) : (0#1 ++ 1#1).getLsbD j = _ := BitVec.getLsbD_append (x := 0#1) (y := 1#1) (i := j)
  rw [h1]
  split
  · rfl
  · rw [h2, h3, h4, h5]
    simp only [Nat.sub_sub]
    repeat' split
    all_goals first | rfl | omega

/-- Every bit of a frame word: the frame, `extra` above it, `dbg` above that. -/
theorem frameWord_bit (dbg : Bool) (extra : Byte) (f : BitVec 48) (j : Nat) :
    (BitVec.ofBool dbg ++ extra ++ f : BitVec 57).getLsbD j =
      if j < 48 then f.getLsbD j
      else if j < 56 then extra.getLsbD (j - 48) else (BitVec.ofBool dbg).getLsbD (j - 56) := by
  have h1 : (BitVec.ofBool dbg ++ extra ++ f : BitVec 57).getLsbD j = _ :=
    BitVec.getLsbD_append (x := BitVec.ofBool dbg ++ extra) (y := f) (i := j)
  have h2 (j) : (BitVec.ofBool dbg ++ extra).getLsbD j = _ :=
    BitVec.getLsbD_append (x := BitVec.ofBool dbg) (y := extra) (i := j)
  rw [h1, h2]
  simp only [Nat.sub_sub]
  repeat' split
  all_goals first | rfl | omega

/-- Every bit of an operation word. -/
theorem hostopWord_bit (sector : Word32) (dbg : Bool) (extra : Byte) (arg : Word32) (idx : BitVec 6) (op : BitVec 2)
    (j : Nat) :
    (sector ++ BitVec.ofBool dbg ++ extra ++ arg ++ idx ++ op : BitVec 81).getLsbD j =
      if j < 2 then op.getLsbD j
      else if j < 8 then idx.getLsbD (j - 2)
      else if j < 40 then arg.getLsbD (j - 8)
      else if j < 48 then extra.getLsbD (j - 40)
      else if j < 49 then (BitVec.ofBool dbg).getLsbD (j - 48) else sector.getLsbD (j - 49) := by
  have h1 : (sector ++ BitVec.ofBool dbg ++ extra ++ arg ++ idx ++ op : BitVec 81).getLsbD j = _ :=
    BitVec.getLsbD_append (x := sector ++ BitVec.ofBool dbg ++ extra ++ arg ++ idx) (y := op) (i := j)
  have h2 (j) : (sector ++ BitVec.ofBool dbg ++ extra ++ arg ++ idx).getLsbD j = _ :=
    BitVec.getLsbD_append (x := sector ++ BitVec.ofBool dbg ++ extra ++ arg) (y := idx) (i := j)
  have h3 (j) : (sector ++ BitVec.ofBool dbg ++ extra ++ arg).getLsbD j = _ :=
    BitVec.getLsbD_append (x := sector ++ BitVec.ofBool dbg ++ extra) (y := arg) (i := j)
  have h4 (j) : (sector ++ BitVec.ofBool dbg ++ extra).getLsbD j = _ :=
    BitVec.getLsbD_append (x := sector ++ BitVec.ofBool dbg) (y := extra) (i := j)
  have h5 (j) : (sector ++ BitVec.ofBool dbg).getLsbD j = _ :=
    BitVec.getLsbD_append (x := sector) (y := BitVec.ofBool dbg) (i := j)
  rw [h1]
  split
  · rfl
  · rw [h2, h3, h4, h5]
    simp only [Nat.sub_sub]
    repeat' split
    all_goals first | rfl | omega

theorem ofBool_bit (b : Bool) : (BitVec.ofBool b).getLsbD 0 = b := by cases b <;> rfl

/-- A field read back from a word whose bits are known. -/
theorem field_eq {n k w : Nat} (x : BitVec w) (y : BitVec k)
    (h : ∀ i, i < k → x.getLsbD (n + i) = y.getLsbD i) : x.extractLsb' n k = y := by
  apply BitVec.eq_of_getLsbD_eq
  intro i hi
  rw [BitVec.getLsbD_extractLsb', h i hi]
  simp [hi]

/-- A frame word decodes to the row that its fields name. -/
theorem decode_frameWord (idx : BitVec 6) (arg : Word32) (crc : BitVec 7) (extra : Byte) (dbg : Bool) :
    decode (frameWord idx arg crc extra dbg) = .ok (selectRow idx arg crc extra dbg) := by
  have b := frameWord_bit dbg extra (frame48 idx arg crc)
  have hf := frame48_bit idx arg crc
  simp only [decode, frameWord, decodeFrame]
  rw [b 47, b 46, b 0, b 56]
  rw [field_eq (n := 40) (k := 6) _ idx fun i hi => by
      rw [b, if_pos (by omega), hf, if_neg (by omega), if_neg (by omega), if_neg (by omega), if_pos (by omega)]
      congr 1; omega,
    field_eq (n := 8) (k := 32) _ arg fun i hi => by
      rw [b, if_pos (by omega), hf, if_neg (by omega), if_neg (by omega), if_pos (by omega)]
      congr 1; omega,
    field_eq (n := 1) (k := 7) _ crc fun i hi => by
      rw [b, if_pos (by omega), hf, if_neg (by omega), if_pos (by omega)]
      congr 1; omega,
    field_eq (n := 48) (k := 8) _ extra fun i hi => by
      rw [b, if_neg (by omega), if_pos (by omega)]
      congr 1; omega]
  have h47 : (frame48 idx arg crc).getLsbD 47 = false := by rw [hf]; rfl
  have h46 : (frame48 idx arg crc).getLsbD 46 = true := by rw [hf]; rfl
  have h0 : (frame48 idx arg crc).getLsbD 0 = true := by rw [hf]; rfl
  simp only [h47, h46, h0]
  cases dbg <;> rfl

/-- The fields of an operation word. -/
theorem hostop_fields (sector : Word32) (dbg : Bool) (extra : Byte) (arg : Word32) (idx : BitVec 6) (op : BitVec 2) :
    let w : BitVec 81 := sector ++ BitVec.ofBool dbg ++ extra ++ arg ++ idx ++ op
    w.extractLsb' 0 2 = op ∧ w.extractLsb' 2 6 = idx ∧ w.extractLsb' 8 32 = arg ∧ w.extractLsb' 40 8 = extra ∧
      w.getLsbD 48 = dbg ∧ w.extractLsb' 49 32 = sector := by
  have b := hostopWord_bit sector dbg extra arg idx op
  refine ⟨field_eq _ _ fun i hi => ?_, field_eq _ _ fun i hi => ?_, field_eq _ _ fun i hi => ?_,
    field_eq _ _ fun i hi => ?_, ?_, field_eq _ _ fun i hi => ?_⟩
  · rw [b, if_pos (by omega)]; congr 1; omega
  · rw [b, if_neg (by omega), if_pos (by omega)]; congr 1; omega
  · rw [b, if_neg (by omega), if_neg (by omega), if_pos (by omega)]; congr 1; omega
  · rw [b, if_neg (by omega), if_neg (by omega), if_neg (by omega), if_pos (by omega)]; congr 1; omega
  · rw [b]; simp
  · rw [b, if_neg (by omega), if_neg (by omega), if_neg (by omega), if_neg (by omega), if_neg (by omega)]
    congr 1; omega

end Sys2Proof
end

