-- ==== Sys2Proof/Laws/State.lean ====
section
/-! SUPPORT. One lemma for each field of State under each update that the named operations make, true by `rfl`, so that
no proof unfolds a record update; and the reductions of the other operations to these. -/

namespace Sys2Proof.Machine

@[simp] theorem State.setRate_eq (s : State) (r : Rate) : s.setRate r = s.emit (.rate r) := rfl
@[simp] theorem State.powerOff_eq (s : State) : s.powerOff = s.emit .pwrOff := rfl
@[simp] theorem State.powerOn_eq (s : State) : s.powerOn = s.emit .pwrOn := rfl
@[simp] theorem State.delay_eq (s : State) (ms : BitVec 16) : s.delay ms = s.emit (.delay ms) := rfl
@[simp] theorem State.setTimeoutCount_eq (s : State) (c : Count) :
    s.setTimeoutCount c = s.withStatus (s.dev.status.withTimeoutCount c) := rfl
@[simp] theorem State.pollByte_eq (s : State) : s.pollByte = (s.xfer s.cfg.filler).setB s.inByte := rfl
@[simp] theorem returnWrite_eq (s : State) : returnWrite s = (s.finish true).setNextAddr (s.sector + 1) := rfl
@[simp] theorem returnInit_eq (s : State) : returnInit s = s.finish s.dev.status.ok := rfl
@[simp] theorem returnCmd_eq (s : State) : returnCmd s = s.finish s.answered := rfl

@[simp] theorem DeviceHandle.withStatus_status (d : DeviceHandle) (r : StatusRecord) : (d.withStatus r).status = r := rfl
@[simp] theorem DeviceHandle.withStatus_capClass (d : DeviceHandle) (r : StatusRecord) :
    (d.withStatus r).capClass = d.capClass := rfl
@[simp] theorem DeviceHandle.withStatus_legacy (d : DeviceHandle) (r : StatusRecord) :
    (d.withStatus r).legacy = d.legacy := rfl
@[simp] theorem DeviceHandle.withStatus_usableCapacity (d : DeviceHandle) (r : StatusRecord) :
    (d.withStatus r).usableCapacity = d.usableCapacity := rfl
@[simp] theorem DeviceHandle.withLegacy_status (d : DeviceHandle) (b : Bool) : (d.withLegacy b).status = d.status := rfl
@[simp] theorem DeviceHandle.withLegacy_capClass (d : DeviceHandle) (b : Bool) :
    (d.withLegacy b).capClass = d.capClass := rfl
@[simp] theorem DeviceHandle.withLegacy_legacy (d : DeviceHandle) (b : Bool) : (d.withLegacy b).legacy = b := rfl
@[simp] theorem DeviceHandle.withLegacy_usableCapacity (d : DeviceHandle) (b : Bool) :
    (d.withLegacy b).usableCapacity = d.usableCapacity := rfl
@[simp] theorem DeviceHandle.withCapClass_status (d : DeviceHandle) (c : CapClass) :
    (d.withCapClass c).status = d.status := rfl
@[simp] theorem DeviceHandle.withCapClass_capClass (d : DeviceHandle) (c : CapClass) :
    (d.withCapClass c).capClass = c := rfl
@[simp] theorem DeviceHandle.withCapClass_legacy (d : DeviceHandle) (c : CapClass) :
    (d.withCapClass c).legacy = d.legacy := rfl
@[simp] theorem DeviceHandle.withCapClass_usableCapacity (d : DeviceHandle) (c : CapClass) :
    (d.withCapClass c).usableCapacity = d.usableCapacity := rfl
@[simp] theorem DeviceHandle.withCapacity_status (d : DeviceHandle) (c : Word32) :
    (d.withCapacity c).status = d.status := rfl
@[simp] theorem DeviceHandle.withCapacity_capClass (d : DeviceHandle) (c : Word32) :
    (d.withCapacity c).capClass = d.capClass := rfl
@[simp] theorem DeviceHandle.withCapacity_legacy (d : DeviceHandle) (c : Word32) :
    (d.withCapacity c).legacy = d.legacy := rfl
@[simp] theorem DeviceHandle.withCapacity_usableCapacity (d : DeviceHandle) (c : Word32) :
    (d.withCapacity c).usableCapacity = c := rfl
@[simp] theorem StatusRecord.withTimeoutCount_timeoutCount (r : StatusRecord) (c : Count) :
    (r.withTimeoutCount c).timeoutCount = c := rfl
@[simp] theorem StatusRecord.withTimeoutCount_ok (r : StatusRecord) (c : Count) :
    (r.withTimeoutCount c).ok = r.ok := rfl
@[simp] theorem StatusRecord.withTimeoutCount_flag (r : StatusRecord) (c : Count) (e : FaultFlag) :
    (r.withTimeoutCount c).flag e = r.flag e := by cases e <;> rfl
@[simp] theorem StatusRecord.withTimeoutCount_fatalCount (r : StatusRecord) (c : Count) :
    (r.withTimeoutCount c).fatalCount = r.fatalCount := rfl
@[simp] theorem StatusRecord.withOk_timeoutCount (r : StatusRecord) (b : Bool) :
    (r.withOk b).timeoutCount = r.timeoutCount := rfl
@[simp] theorem StatusRecord.withOk_ok (r : StatusRecord) (b : Bool) : (r.withOk b).ok = b := rfl
@[simp] theorem StatusRecord.withOk_flag (r : StatusRecord) (b : Bool) (e : FaultFlag) :
    (r.withOk b).flag e = r.flag e := by cases e <;> rfl
@[simp] theorem StatusRecord.withOk_fatalCount (r : StatusRecord) (b : Bool) :
    (r.withOk b).fatalCount = r.fatalCount := rfl
@[simp] theorem StatusRecord.raise_ok (r : StatusRecord) (e : FaultFlag) : (r.raise e).ok = r.ok := by cases e <;> rfl
@[simp] theorem StatusRecord.raise_timeoutCount (r : StatusRecord) (e : FaultFlag) :
    (r.raise e).timeoutCount = r.timeoutCount := by cases e <;> rfl
theorem StatusRecord.raise_flag (r : StatusRecord) (e e' : FaultFlag) :
    (r.raise e).flag e' = (r.flag e' || decide (e' = e)) := by cases e <;> cases e' <;> simp [raise, flag]

theorem State.busy_iff (s : State) : s.busy = true ↔ s.st ≠ .idle := by simp [State.busy]
theorem State.busy_eq_false_iff (s : State) : s.busy = false ↔ s.st = .idle := by simp [State.busy]

@[simp] theorem State.emit_st (s : State) (e : Event) : (s.emit e).st = s.st := rfl
@[simp] theorem State.emit_op (s : State) (e : Event) : (s.emit e).op = s.op := rfl
@[simp] theorem State.emit_idx (s : State) (e : Event) : (s.emit e).idx = s.idx := rfl
@[simp] theorem State.emit_arg (s : State) (e : Event) : (s.emit e).arg = s.arg := rfl
@[simp] theorem State.emit_extra (s : State) (e : Event) : (s.emit e).extra = s.extra := rfl
@[simp] theorem State.emit_dbg (s : State) (e : Event) : (s.emit e).dbg = s.dbg := rfl
@[simp] theorem State.emit_f (s : State) (e : Event) : (s.emit e).f = s.f := rfl
@[simp] theorem State.emit_n (s : State) (e : Event) : (s.emit e).n = s.n := rfl
@[simp] theorem State.emit_cnt (s : State) (e : Event) : (s.emit e).cnt = s.cnt := rfl
@[simp] theorem State.emit_r1 (s : State) (e : Event) : (s.emit e).r1 = s.r1 := rfl
@[simp] theorem State.emit_answered (s : State) (e : Event) : (s.emit e).answered = s.answered := rfl
@[simp] theorem State.emit_echo (s : State) (e : Event) : (s.emit e).echo = s.echo := rfl
@[simp] theorem State.emit_sector (s : State) (e : Event) : (s.emit e).sector = s.sector := rfl
@[simp] theorem State.emit_b (s : State) (e : Event) : (s.emit e).b = s.b := rfl
@[simp] theorem State.emit_dev (s : State) (e : Event) : (s.emit e).dev = s.dev := rfl
@[simp] theorem State.emit_xbuf (s : State) (e : Event) : (s.emit e).xbuf = s.xbuf := rfl
@[simp] theorem State.emit_csd (s : State) (e : Event) : (s.emit e).csd = s.csd := rfl
@[simp] theorem State.emit_busAsserted (s : State) (e : Event) : (s.emit e).busAsserted = s.busAsserted := rfl
@[simp] theorem State.emit_done (s : State) (e : Event) : (s.emit e).done = s.done := rfl
@[simp] theorem State.emit_resOk (s : State) (e : Event) : (s.emit e).resOk = s.resOk := rfl
@[simp] theorem State.emit_nextAddr (s : State) (e : Event) : (s.emit e).nextAddr = s.nextAddr := rfl
@[simp] theorem State.emit_framed (s : State) (e : Event) : (s.emit e).framed = s.framed := rfl
@[simp] theorem State.emit_mem (s : State) (e : Event) : (s.emit e).mem = s.mem := rfl
@[simp] theorem State.emit_cfg (s : State) (e : Event) : (s.emit e).cfg = s.cfg := rfl
@[simp] theorem State.emit_env (s : State) (e : Event) : (s.emit e).env = s.env := rfl
@[simp] theorem State.emit_inputs (s : State) (e : Event) : (s.emit e).inputs = s.inputs := rfl
@[simp] theorem State.emit_trace (s : State) (e : Event) : (s.emit e).trace = e :: s.trace := rfl

@[simp] theorem State.assertBus_st (s : State) : (s.assertBus).st = s.st := rfl
@[simp] theorem State.assertBus_op (s : State) : (s.assertBus).op = s.op := rfl
@[simp] theorem State.assertBus_idx (s : State) : (s.assertBus).idx = s.idx := rfl
@[simp] theorem State.assertBus_arg (s : State) : (s.assertBus).arg = s.arg := rfl
@[simp] theorem State.assertBus_extra (s : State) : (s.assertBus).extra = s.extra := rfl
@[simp] theorem State.assertBus_dbg (s : State) : (s.assertBus).dbg = s.dbg := rfl
@[simp] theorem State.assertBus_f (s : State) : (s.assertBus).f = s.f := rfl
@[simp] theorem State.assertBus_n (s : State) : (s.assertBus).n = s.n := rfl
@[simp] theorem State.assertBus_cnt (s : State) : (s.assertBus).cnt = s.cnt := rfl
@[simp] theorem State.assertBus_r1 (s : State) : (s.assertBus).r1 = s.r1 := rfl
@[simp] theorem State.assertBus_answered (s : State) : (s.assertBus).answered = s.answered := rfl
@[simp] theorem State.assertBus_echo (s : State) : (s.assertBus).echo = s.echo := rfl
@[simp] theorem State.assertBus_sector (s : State) : (s.assertBus).sector = s.sector := rfl
@[simp] theorem State.assertBus_b (s : State) : (s.assertBus).b = s.b := rfl
@[simp] theorem State.assertBus_dev (s : State) : (s.assertBus).dev = s.dev := rfl
@[simp] theorem State.assertBus_xbuf (s : State) : (s.assertBus).xbuf = s.xbuf := rfl
@[simp] theorem State.assertBus_csd (s : State) : (s.assertBus).csd = s.csd := rfl
@[simp] theorem State.assertBus_busAsserted (s : State) : (s.assertBus).busAsserted = true := rfl
@[simp] theorem State.assertBus_done (s : State) : (s.assertBus).done = s.done := rfl
@[simp] theorem State.assertBus_resOk (s : State) : (s.assertBus).resOk = s.resOk := rfl
@[simp] theorem State.assertBus_nextAddr (s : State) : (s.assertBus).nextAddr = s.nextAddr := rfl
@[simp] theorem State.assertBus_framed (s : State) : (s.assertBus).framed = s.framed := rfl
@[simp] theorem State.assertBus_mem (s : State) : (s.assertBus).mem = s.mem := rfl
@[simp] theorem State.assertBus_cfg (s : State) : (s.assertBus).cfg = s.cfg := rfl
@[simp] theorem State.assertBus_env (s : State) : (s.assertBus).env = s.env := rfl
@[simp] theorem State.assertBus_inputs (s : State) : (s.assertBus).inputs = s.inputs := rfl
@[simp] theorem State.assertBus_trace (s : State) : (s.assertBus).trace = .assert :: s.trace := rfl

@[simp] theorem State.releaseBus_st (s : State) : (s.releaseBus).st = s.st := rfl
@[simp] theorem State.releaseBus_op (s : State) : (s.releaseBus).op = s.op := rfl
@[simp] theorem State.releaseBus_idx (s : State) : (s.releaseBus).idx = s.idx := rfl
@[simp] theorem State.releaseBus_arg (s : State) : (s.releaseBus).arg = s.arg := rfl
@[simp] theorem State.releaseBus_extra (s : State) : (s.releaseBus).extra = s.extra := rfl
@[simp] theorem State.releaseBus_dbg (s : State) : (s.releaseBus).dbg = s.dbg := rfl
@[simp] theorem State.releaseBus_f (s : State) : (s.releaseBus).f = s.f := rfl
@[simp] theorem State.releaseBus_n (s : State) : (s.releaseBus).n = s.n := rfl
@[simp] theorem State.releaseBus_cnt (s : State) : (s.releaseBus).cnt = s.cnt := rfl
@[simp] theorem State.releaseBus_r1 (s : State) : (s.releaseBus).r1 = s.r1 := rfl
@[simp] theorem State.releaseBus_answered (s : State) : (s.releaseBus).answered = s.answered := rfl
@[simp] theorem State.releaseBus_echo (s : State) : (s.releaseBus).echo = s.echo := rfl
@[simp] theorem State.releaseBus_sector (s : State) : (s.releaseBus).sector = s.sector := rfl
@[simp] theorem State.releaseBus_b (s : State) : (s.releaseBus).b = s.b := rfl
@[simp] theorem State.releaseBus_dev (s : State) : (s.releaseBus).dev = s.dev := rfl
@[simp] theorem State.releaseBus_xbuf (s : State) : (s.releaseBus).xbuf = s.xbuf := rfl
@[simp] theorem State.releaseBus_csd (s : State) : (s.releaseBus).csd = s.csd := rfl
@[simp] theorem State.releaseBus_busAsserted (s : State) : (s.releaseBus).busAsserted = false := rfl
@[simp] theorem State.releaseBus_done (s : State) : (s.releaseBus).done = s.done := rfl
@[simp] theorem State.releaseBus_resOk (s : State) : (s.releaseBus).resOk = s.resOk := rfl
@[simp] theorem State.releaseBus_nextAddr (s : State) : (s.releaseBus).nextAddr = s.nextAddr := rfl
@[simp] theorem State.releaseBus_framed (s : State) : (s.releaseBus).framed = s.framed := rfl
@[simp] theorem State.releaseBus_mem (s : State) : (s.releaseBus).mem = s.mem := rfl
@[simp] theorem State.releaseBus_cfg (s : State) : (s.releaseBus).cfg = s.cfg := rfl
@[simp] theorem State.releaseBus_env (s : State) : (s.releaseBus).env = s.env := rfl
@[simp] theorem State.releaseBus_inputs (s : State) : (s.releaseBus).inputs = s.inputs := rfl
@[simp] theorem State.releaseBus_trace (s : State) : (s.releaseBus).trace = .release :: s.trace := rfl

@[simp] theorem State.xfer_st (s : State) (o : Byte) : (s.xfer o).st = s.st := rfl
@[simp] theorem State.xfer_op (s : State) (o : Byte) : (s.xfer o).op = s.op := rfl
@[simp] theorem State.xfer_idx (s : State) (o : Byte) : (s.xfer o).idx = s.idx := rfl
@[simp] theorem State.xfer_arg (s : State) (o : Byte) : (s.xfer o).arg = s.arg := rfl
@[simp] theorem State.xfer_extra (s : State) (o : Byte) : (s.xfer o).extra = s.extra := rfl
@[simp] theorem State.xfer_dbg (s : State) (o : Byte) : (s.xfer o).dbg = s.dbg := rfl
@[simp] theorem State.xfer_f (s : State) (o : Byte) : (s.xfer o).f = s.f := rfl
@[simp] theorem State.xfer_n (s : State) (o : Byte) : (s.xfer o).n = s.n := rfl
@[simp] theorem State.xfer_cnt (s : State) (o : Byte) : (s.xfer o).cnt = s.cnt := rfl
@[simp] theorem State.xfer_r1 (s : State) (o : Byte) : (s.xfer o).r1 = s.r1 := rfl
@[simp] theorem State.xfer_answered (s : State) (o : Byte) : (s.xfer o).answered = s.answered := rfl
@[simp] theorem State.xfer_echo (s : State) (o : Byte) : (s.xfer o).echo = s.echo := rfl
@[simp] theorem State.xfer_sector (s : State) (o : Byte) : (s.xfer o).sector = s.sector := rfl
@[simp] theorem State.xfer_b (s : State) (o : Byte) : (s.xfer o).b = s.b := rfl
@[simp] theorem State.xfer_dev (s : State) (o : Byte) : (s.xfer o).dev = s.dev := rfl
@[simp] theorem State.xfer_xbuf (s : State) (o : Byte) : (s.xfer o).xbuf = s.xbuf := rfl
@[simp] theorem State.xfer_csd (s : State) (o : Byte) : (s.xfer o).csd = s.csd := rfl
@[simp] theorem State.xfer_busAsserted (s : State) (o : Byte) : (s.xfer o).busAsserted = s.busAsserted := rfl
@[simp] theorem State.xfer_done (s : State) (o : Byte) : (s.xfer o).done = s.done := rfl
@[simp] theorem State.xfer_resOk (s : State) (o : Byte) : (s.xfer o).resOk = s.resOk := rfl
@[simp] theorem State.xfer_nextAddr (s : State) (o : Byte) : (s.xfer o).nextAddr = s.nextAddr := rfl
@[simp] theorem State.xfer_framed (s : State) (o : Byte) : (s.xfer o).framed = s.framed := rfl
@[simp] theorem State.xfer_mem (s : State) (o : Byte) : (s.xfer o).mem = s.mem := rfl
@[simp] theorem State.xfer_cfg (s : State) (o : Byte) : (s.xfer o).cfg = s.cfg := rfl
@[simp] theorem State.xfer_env (s : State) (o : Byte) : (s.xfer o).env = { s.env with xfer := s.env.xfer.pop } := rfl
@[simp] theorem State.xfer_inputs (s : State) (o : Byte) : (s.xfer o).inputs = s.inputs := rfl
@[simp] theorem State.xfer_trace (s : State) (o : Byte) : (s.xfer o).trace = .xfer o s.inByte s.dbg :: s.trace := rfl

@[simp] theorem State.sensePresent_st (s : State) : (s.sensePresent).st = s.st := rfl
@[simp] theorem State.sensePresent_op (s : State) : (s.sensePresent).op = s.op := rfl
@[simp] theorem State.sensePresent_idx (s : State) : (s.sensePresent).idx = s.idx := rfl
@[simp] theorem State.sensePresent_arg (s : State) : (s.sensePresent).arg = s.arg := rfl
@[simp] theorem State.sensePresent_extra (s : State) : (s.sensePresent).extra = s.extra := rfl
@[simp] theorem State.sensePresent_dbg (s : State) : (s.sensePresent).dbg = s.dbg := rfl
@[simp] theorem State.sensePresent_f (s : State) : (s.sensePresent).f = s.f := rfl
@[simp] theorem State.sensePresent_n (s : State) : (s.sensePresent).n = s.n := rfl
@[simp] theorem State.sensePresent_cnt (s : State) : (s.sensePresent).cnt = s.cnt := rfl
@[simp] theorem State.sensePresent_r1 (s : State) : (s.sensePresent).r1 = s.r1 := rfl
@[simp] theorem State.sensePresent_answered (s : State) : (s.sensePresent).answered = s.answered := rfl
@[simp] theorem State.sensePresent_echo (s : State) : (s.sensePresent).echo = s.echo := rfl
@[simp] theorem State.sensePresent_sector (s : State) : (s.sensePresent).sector = s.sector := rfl
@[simp] theorem State.sensePresent_b (s : State) : (s.sensePresent).b = s.b := rfl
@[simp] theorem State.sensePresent_dev (s : State) : (s.sensePresent).dev = s.dev := rfl
@[simp] theorem State.sensePresent_xbuf (s : State) : (s.sensePresent).xbuf = s.xbuf := rfl
@[simp] theorem State.sensePresent_csd (s : State) : (s.sensePresent).csd = s.csd := rfl
@[simp] theorem State.sensePresent_busAsserted (s : State) : (s.sensePresent).busAsserted = s.busAsserted := rfl
@[simp] theorem State.sensePresent_done (s : State) : (s.sensePresent).done = s.done := rfl
@[simp] theorem State.sensePresent_resOk (s : State) : (s.sensePresent).resOk = s.resOk := rfl
@[simp] theorem State.sensePresent_nextAddr (s : State) : (s.sensePresent).nextAddr = s.nextAddr := rfl
@[simp] theorem State.sensePresent_framed (s : State) : (s.sensePresent).framed = s.framed := rfl
@[simp] theorem State.sensePresent_mem (s : State) : (s.sensePresent).mem = s.mem := rfl
@[simp] theorem State.sensePresent_cfg (s : State) : (s.sensePresent).cfg = s.cfg := rfl
@[simp] theorem State.sensePresent_env (s : State) : (s.sensePresent).env = { s.env with present := s.env.present.pop } := rfl
@[simp] theorem State.sensePresent_inputs (s : State) : (s.sensePresent).inputs = s.inputs := rfl
@[simp] theorem State.sensePresent_trace (s : State) : (s.sensePresent).trace = .sensePresent s.presentBit :: s.trace := rfl

@[simp] theorem State.senseWriteProt_st (s : State) : (s.senseWriteProt).st = s.st := rfl
@[simp] theorem State.senseWriteProt_op (s : State) : (s.senseWriteProt).op = s.op := rfl
@[simp] theorem State.senseWriteProt_idx (s : State) : (s.senseWriteProt).idx = s.idx := rfl
@[simp] theorem State.senseWriteProt_arg (s : State) : (s.senseWriteProt).arg = s.arg := rfl
@[simp] theorem State.senseWriteProt_extra (s : State) : (s.senseWriteProt).extra = s.extra := rfl
@[simp] theorem State.senseWriteProt_dbg (s : State) : (s.senseWriteProt).dbg = s.dbg := rfl
@[simp] theorem State.senseWriteProt_f (s : State) : (s.senseWriteProt).f = s.f := rfl
@[simp] theorem State.senseWriteProt_n (s : State) : (s.senseWriteProt).n = s.n := rfl
@[simp] theorem State.senseWriteProt_cnt (s : State) : (s.senseWriteProt).cnt = s.cnt := rfl
@[simp] theorem State.senseWriteProt_r1 (s : State) : (s.senseWriteProt).r1 = s.r1 := rfl
@[simp] theorem State.senseWriteProt_answered (s : State) : (s.senseWriteProt).answered = s.answered := rfl
@[simp] theorem State.senseWriteProt_echo (s : State) : (s.senseWriteProt).echo = s.echo := rfl
@[simp] theorem State.senseWriteProt_sector (s : State) : (s.senseWriteProt).sector = s.sector := rfl
@[simp] theorem State.senseWriteProt_b (s : State) : (s.senseWriteProt).b = s.b := rfl
@[simp] theorem State.senseWriteProt_dev (s : State) : (s.senseWriteProt).dev = s.dev := rfl
@[simp] theorem State.senseWriteProt_xbuf (s : State) : (s.senseWriteProt).xbuf = s.xbuf := rfl
@[simp] theorem State.senseWriteProt_csd (s : State) : (s.senseWriteProt).csd = s.csd := rfl
@[simp] theorem State.senseWriteProt_busAsserted (s : State) : (s.senseWriteProt).busAsserted = s.busAsserted := rfl
@[simp] theorem State.senseWriteProt_done (s : State) : (s.senseWriteProt).done = s.done := rfl
@[simp] theorem State.senseWriteProt_resOk (s : State) : (s.senseWriteProt).resOk = s.resOk := rfl
@[simp] theorem State.senseWriteProt_nextAddr (s : State) : (s.senseWriteProt).nextAddr = s.nextAddr := rfl
@[simp] theorem State.senseWriteProt_framed (s : State) : (s.senseWriteProt).framed = s.framed := rfl
@[simp] theorem State.senseWriteProt_mem (s : State) : (s.senseWriteProt).mem = s.mem := rfl
@[simp] theorem State.senseWriteProt_cfg (s : State) : (s.senseWriteProt).cfg = s.cfg := rfl
@[simp] theorem State.senseWriteProt_env (s : State) : (s.senseWriteProt).env = { s.env with writeProt := s.env.writeProt.pop } := rfl
@[simp] theorem State.senseWriteProt_inputs (s : State) : (s.senseWriteProt).inputs = s.inputs := rfl
@[simp] theorem State.senseWriteProt_trace (s : State) : (s.senseWriteProt).trace = .senseWp s.writeProtBit :: s.trace := rfl

@[simp] theorem State.goto_st (s : State) (p : Phase) : (s.goto p).st = p := rfl
@[simp] theorem State.goto_op (s : State) (p : Phase) : (s.goto p).op = s.op := rfl
@[simp] theorem State.goto_idx (s : State) (p : Phase) : (s.goto p).idx = s.idx := rfl
@[simp] theorem State.goto_arg (s : State) (p : Phase) : (s.goto p).arg = s.arg := rfl
@[simp] theorem State.goto_extra (s : State) (p : Phase) : (s.goto p).extra = s.extra := rfl
@[simp] theorem State.goto_dbg (s : State) (p : Phase) : (s.goto p).dbg = s.dbg := rfl
@[simp] theorem State.goto_f (s : State) (p : Phase) : (s.goto p).f = s.f := rfl
@[simp] theorem State.goto_n (s : State) (p : Phase) : (s.goto p).n = s.n := rfl
@[simp] theorem State.goto_cnt (s : State) (p : Phase) : (s.goto p).cnt = s.cnt := rfl
@[simp] theorem State.goto_r1 (s : State) (p : Phase) : (s.goto p).r1 = s.r1 := rfl
@[simp] theorem State.goto_answered (s : State) (p : Phase) : (s.goto p).answered = s.answered := rfl
@[simp] theorem State.goto_echo (s : State) (p : Phase) : (s.goto p).echo = s.echo := rfl
@[simp] theorem State.goto_sector (s : State) (p : Phase) : (s.goto p).sector = s.sector := rfl
@[simp] theorem State.goto_b (s : State) (p : Phase) : (s.goto p).b = s.b := rfl
@[simp] theorem State.goto_dev (s : State) (p : Phase) : (s.goto p).dev = s.dev := rfl
@[simp] theorem State.goto_xbuf (s : State) (p : Phase) : (s.goto p).xbuf = s.xbuf := rfl
@[simp] theorem State.goto_csd (s : State) (p : Phase) : (s.goto p).csd = s.csd := rfl
@[simp] theorem State.goto_busAsserted (s : State) (p : Phase) : (s.goto p).busAsserted = s.busAsserted := rfl
@[simp] theorem State.goto_done (s : State) (p : Phase) : (s.goto p).done = s.done := rfl
@[simp] theorem State.goto_resOk (s : State) (p : Phase) : (s.goto p).resOk = s.resOk := rfl
@[simp] theorem State.goto_nextAddr (s : State) (p : Phase) : (s.goto p).nextAddr = s.nextAddr := rfl
@[simp] theorem State.goto_framed (s : State) (p : Phase) : (s.goto p).framed = s.framed := rfl
@[simp] theorem State.goto_mem (s : State) (p : Phase) : (s.goto p).mem = s.mem := rfl
@[simp] theorem State.goto_cfg (s : State) (p : Phase) : (s.goto p).cfg = s.cfg := rfl
@[simp] theorem State.goto_env (s : State) (p : Phase) : (s.goto p).env = s.env := rfl
@[simp] theorem State.goto_inputs (s : State) (p : Phase) : (s.goto p).inputs = s.inputs := rfl
@[simp] theorem State.goto_trace (s : State) (p : Phase) : (s.goto p).trace = s.trace := rfl

@[simp] theorem State.withStatus_st (s : State) (r : StatusRecord) : (s.withStatus r).st = s.st := rfl
@[simp] theorem State.withStatus_op (s : State) (r : StatusRecord) : (s.withStatus r).op = s.op := rfl
@[simp] theorem State.withStatus_idx (s : State) (r : StatusRecord) : (s.withStatus r).idx = s.idx := rfl
@[simp] theorem State.withStatus_arg (s : State) (r : StatusRecord) : (s.withStatus r).arg = s.arg := rfl
@[simp] theorem State.withStatus_extra (s : State) (r : StatusRecord) : (s.withStatus r).extra = s.extra := rfl
@[simp] theorem State.withStatus_dbg (s : State) (r : StatusRecord) : (s.withStatus r).dbg = s.dbg := rfl
@[simp] theorem State.withStatus_f (s : State) (r : StatusRecord) : (s.withStatus r).f = s.f := rfl
@[simp] theorem State.withStatus_n (s : State) (r : StatusRecord) : (s.withStatus r).n = s.n := rfl
@[simp] theorem State.withStatus_cnt (s : State) (r : StatusRecord) : (s.withStatus r).cnt = s.cnt := rfl
@[simp] theorem State.withStatus_r1 (s : State) (r : StatusRecord) : (s.withStatus r).r1 = s.r1 := rfl
@[simp] theorem State.withStatus_answered (s : State) (r : StatusRecord) : (s.withStatus r).answered = s.answered := rfl
@[simp] theorem State.withStatus_echo (s : State) (r : StatusRecord) : (s.withStatus r).echo = s.echo := rfl
@[simp] theorem State.withStatus_sector (s : State) (r : StatusRecord) : (s.withStatus r).sector = s.sector := rfl
@[simp] theorem State.withStatus_b (s : State) (r : StatusRecord) : (s.withStatus r).b = s.b := rfl
@[simp] theorem State.withStatus_dev (s : State) (r : StatusRecord) : (s.withStatus r).dev = s.dev.withStatus r := rfl
@[simp] theorem State.withStatus_xbuf (s : State) (r : StatusRecord) : (s.withStatus r).xbuf = s.xbuf := rfl
@[simp] theorem State.withStatus_csd (s : State) (r : StatusRecord) : (s.withStatus r).csd = s.csd := rfl
@[simp] theorem State.withStatus_busAsserted (s : State) (r : StatusRecord) : (s.withStatus r).busAsserted = s.busAsserted := rfl
@[simp] theorem State.withStatus_done (s : State) (r : StatusRecord) : (s.withStatus r).done = s.done := rfl
@[simp] theorem State.withStatus_resOk (s : State) (r : StatusRecord) : (s.withStatus r).resOk = s.resOk := rfl
@[simp] theorem State.withStatus_nextAddr (s : State) (r : StatusRecord) : (s.withStatus r).nextAddr = s.nextAddr := rfl
@[simp] theorem State.withStatus_framed (s : State) (r : StatusRecord) : (s.withStatus r).framed = s.framed := rfl
@[simp] theorem State.withStatus_mem (s : State) (r : StatusRecord) : (s.withStatus r).mem = s.mem := rfl
@[simp] theorem State.withStatus_cfg (s : State) (r : StatusRecord) : (s.withStatus r).cfg = s.cfg := rfl
@[simp] theorem State.withStatus_env (s : State) (r : StatusRecord) : (s.withStatus r).env = s.env := rfl
@[simp] theorem State.withStatus_inputs (s : State) (r : StatusRecord) : (s.withStatus r).inputs = s.inputs := rfl
@[simp] theorem State.withStatus_trace (s : State) (r : StatusRecord) : (s.withStatus r).trace = s.trace := rfl

@[simp] theorem State.setN_st (s : State) (c : Count) : (s.setN c).st = s.st := rfl
@[simp] theorem State.setN_op (s : State) (c : Count) : (s.setN c).op = s.op := rfl
@[simp] theorem State.setN_idx (s : State) (c : Count) : (s.setN c).idx = s.idx := rfl
@[simp] theorem State.setN_arg (s : State) (c : Count) : (s.setN c).arg = s.arg := rfl
@[simp] theorem State.setN_extra (s : State) (c : Count) : (s.setN c).extra = s.extra := rfl
@[simp] theorem State.setN_dbg (s : State) (c : Count) : (s.setN c).dbg = s.dbg := rfl
@[simp] theorem State.setN_f (s : State) (c : Count) : (s.setN c).f = s.f := rfl
@[simp] theorem State.setN_n (s : State) (c : Count) : (s.setN c).n = c := rfl
@[simp] theorem State.setN_cnt (s : State) (c : Count) : (s.setN c).cnt = s.cnt := rfl
@[simp] theorem State.setN_r1 (s : State) (c : Count) : (s.setN c).r1 = s.r1 := rfl
@[simp] theorem State.setN_answered (s : State) (c : Count) : (s.setN c).answered = s.answered := rfl
@[simp] theorem State.setN_echo (s : State) (c : Count) : (s.setN c).echo = s.echo := rfl
@[simp] theorem State.setN_sector (s : State) (c : Count) : (s.setN c).sector = s.sector := rfl
@[simp] theorem State.setN_b (s : State) (c : Count) : (s.setN c).b = s.b := rfl
@[simp] theorem State.setN_dev (s : State) (c : Count) : (s.setN c).dev = s.dev := rfl
@[simp] theorem State.setN_xbuf (s : State) (c : Count) : (s.setN c).xbuf = s.xbuf := rfl
@[simp] theorem State.setN_csd (s : State) (c : Count) : (s.setN c).csd = s.csd := rfl
@[simp] theorem State.setN_busAsserted (s : State) (c : Count) : (s.setN c).busAsserted = s.busAsserted := rfl
@[simp] theorem State.setN_done (s : State) (c : Count) : (s.setN c).done = s.done := rfl
@[simp] theorem State.setN_resOk (s : State) (c : Count) : (s.setN c).resOk = s.resOk := rfl
@[simp] theorem State.setN_nextAddr (s : State) (c : Count) : (s.setN c).nextAddr = s.nextAddr := rfl
@[simp] theorem State.setN_framed (s : State) (c : Count) : (s.setN c).framed = s.framed := rfl
@[simp] theorem State.setN_mem (s : State) (c : Count) : (s.setN c).mem = s.mem := rfl
@[simp] theorem State.setN_cfg (s : State) (c : Count) : (s.setN c).cfg = s.cfg := rfl
@[simp] theorem State.setN_env (s : State) (c : Count) : (s.setN c).env = s.env := rfl
@[simp] theorem State.setN_inputs (s : State) (c : Count) : (s.setN c).inputs = s.inputs := rfl
@[simp] theorem State.setN_trace (s : State) (c : Count) : (s.setN c).trace = s.trace := rfl

@[simp] theorem State.setCnt_st (s : State) (c : Count) : (s.setCnt c).st = s.st := rfl
@[simp] theorem State.setCnt_op (s : State) (c : Count) : (s.setCnt c).op = s.op := rfl
@[simp] theorem State.setCnt_idx (s : State) (c : Count) : (s.setCnt c).idx = s.idx := rfl
@[simp] theorem State.setCnt_arg (s : State) (c : Count) : (s.setCnt c).arg = s.arg := rfl
@[simp] theorem State.setCnt_extra (s : State) (c : Count) : (s.setCnt c).extra = s.extra := rfl
@[simp] theorem State.setCnt_dbg (s : State) (c : Count) : (s.setCnt c).dbg = s.dbg := rfl
@[simp] theorem State.setCnt_f (s : State) (c : Count) : (s.setCnt c).f = s.f := rfl
@[simp] theorem State.setCnt_n (s : State) (c : Count) : (s.setCnt c).n = s.n := rfl
@[simp] theorem State.setCnt_cnt (s : State) (c : Count) : (s.setCnt c).cnt = c := rfl
@[simp] theorem State.setCnt_r1 (s : State) (c : Count) : (s.setCnt c).r1 = s.r1 := rfl
@[simp] theorem State.setCnt_answered (s : State) (c : Count) : (s.setCnt c).answered = s.answered := rfl
@[simp] theorem State.setCnt_echo (s : State) (c : Count) : (s.setCnt c).echo = s.echo := rfl
@[simp] theorem State.setCnt_sector (s : State) (c : Count) : (s.setCnt c).sector = s.sector := rfl
@[simp] theorem State.setCnt_b (s : State) (c : Count) : (s.setCnt c).b = s.b := rfl
@[simp] theorem State.setCnt_dev (s : State) (c : Count) : (s.setCnt c).dev = s.dev := rfl
@[simp] theorem State.setCnt_xbuf (s : State) (c : Count) : (s.setCnt c).xbuf = s.xbuf := rfl
@[simp] theorem State.setCnt_csd (s : State) (c : Count) : (s.setCnt c).csd = s.csd := rfl
@[simp] theorem State.setCnt_busAsserted (s : State) (c : Count) : (s.setCnt c).busAsserted = s.busAsserted := rfl
@[simp] theorem State.setCnt_done (s : State) (c : Count) : (s.setCnt c).done = s.done := rfl
@[simp] theorem State.setCnt_resOk (s : State) (c : Count) : (s.setCnt c).resOk = s.resOk := rfl
@[simp] theorem State.setCnt_nextAddr (s : State) (c : Count) : (s.setCnt c).nextAddr = s.nextAddr := rfl
@[simp] theorem State.setCnt_framed (s : State) (c : Count) : (s.setCnt c).framed = s.framed := rfl
@[simp] theorem State.setCnt_mem (s : State) (c : Count) : (s.setCnt c).mem = s.mem := rfl
@[simp] theorem State.setCnt_cfg (s : State) (c : Count) : (s.setCnt c).cfg = s.cfg := rfl
@[simp] theorem State.setCnt_env (s : State) (c : Count) : (s.setCnt c).env = s.env := rfl
@[simp] theorem State.setCnt_inputs (s : State) (c : Count) : (s.setCnt c).inputs = s.inputs := rfl
@[simp] theorem State.setCnt_trace (s : State) (c : Count) : (s.setCnt c).trace = s.trace := rfl

@[simp] theorem State.setToken_st (s : State) (x : Byte) (a : Bool) : (s.setToken x a).st = s.st := rfl
@[simp] theorem State.setToken_op (s : State) (x : Byte) (a : Bool) : (s.setToken x a).op = s.op := rfl
@[simp] theorem State.setToken_idx (s : State) (x : Byte) (a : Bool) : (s.setToken x a).idx = s.idx := rfl
@[simp] theorem State.setToken_arg (s : State) (x : Byte) (a : Bool) : (s.setToken x a).arg = s.arg := rfl
@[simp] theorem State.setToken_extra (s : State) (x : Byte) (a : Bool) : (s.setToken x a).extra = s.extra := rfl
@[simp] theorem State.setToken_dbg (s : State) (x : Byte) (a : Bool) : (s.setToken x a).dbg = s.dbg := rfl
@[simp] theorem State.setToken_f (s : State) (x : Byte) (a : Bool) : (s.setToken x a).f = s.f := rfl
@[simp] theorem State.setToken_n (s : State) (x : Byte) (a : Bool) : (s.setToken x a).n = s.n := rfl
@[simp] theorem State.setToken_cnt (s : State) (x : Byte) (a : Bool) : (s.setToken x a).cnt = s.cnt := rfl
@[simp] theorem State.setToken_r1 (s : State) (x : Byte) (a : Bool) : (s.setToken x a).r1 = x := rfl
@[simp] theorem State.setToken_answered (s : State) (x : Byte) (a : Bool) : (s.setToken x a).answered = a := rfl
@[simp] theorem State.setToken_echo (s : State) (x : Byte) (a : Bool) : (s.setToken x a).echo = s.echo := rfl
@[simp] theorem State.setToken_sector (s : State) (x : Byte) (a : Bool) : (s.setToken x a).sector = s.sector := rfl
@[simp] theorem State.setToken_b (s : State) (x : Byte) (a : Bool) : (s.setToken x a).b = s.b := rfl
@[simp] theorem State.setToken_dev (s : State) (x : Byte) (a : Bool) : (s.setToken x a).dev = s.dev := rfl
@[simp] theorem State.setToken_xbuf (s : State) (x : Byte) (a : Bool) : (s.setToken x a).xbuf = s.xbuf := rfl
@[simp] theorem State.setToken_csd (s : State) (x : Byte) (a : Bool) : (s.setToken x a).csd = s.csd := rfl
@[simp] theorem State.setToken_busAsserted (s : State) (x : Byte) (a : Bool) : (s.setToken x a).busAsserted = s.busAsserted := rfl
@[simp] theorem State.setToken_done (s : State) (x : Byte) (a : Bool) : (s.setToken x a).done = s.done := rfl
@[simp] theorem State.setToken_resOk (s : State) (x : Byte) (a : Bool) : (s.setToken x a).resOk = s.resOk := rfl
@[simp] theorem State.setToken_nextAddr (s : State) (x : Byte) (a : Bool) : (s.setToken x a).nextAddr = s.nextAddr := rfl
@[simp] theorem State.setToken_framed (s : State) (x : Byte) (a : Bool) : (s.setToken x a).framed = true := rfl
@[simp] theorem State.setToken_mem (s : State) (x : Byte) (a : Bool) : (s.setToken x a).mem = s.mem := rfl
@[simp] theorem State.setToken_cfg (s : State) (x : Byte) (a : Bool) : (s.setToken x a).cfg = s.cfg := rfl
@[simp] theorem State.setToken_env (s : State) (x : Byte) (a : Bool) : (s.setToken x a).env = s.env := rfl
@[simp] theorem State.setToken_inputs (s : State) (x : Byte) (a : Bool) : (s.setToken x a).inputs = s.inputs := rfl
@[simp] theorem State.setToken_trace (s : State) (x : Byte) (a : Bool) : (s.setToken x a).trace = s.trace := rfl

@[simp] theorem State.setB_st (s : State) (x : Byte) : (s.setB x).st = s.st := rfl
@[simp] theorem State.setB_op (s : State) (x : Byte) : (s.setB x).op = s.op := rfl
@[simp] theorem State.setB_idx (s : State) (x : Byte) : (s.setB x).idx = s.idx := rfl
@[simp] theorem State.setB_arg (s : State) (x : Byte) : (s.setB x).arg = s.arg := rfl
@[simp] theorem State.setB_extra (s : State) (x : Byte) : (s.setB x).extra = s.extra := rfl
@[simp] theorem State.setB_dbg (s : State) (x : Byte) : (s.setB x).dbg = s.dbg := rfl
@[simp] theorem State.setB_f (s : State) (x : Byte) : (s.setB x).f = s.f := rfl
@[simp] theorem State.setB_n (s : State) (x : Byte) : (s.setB x).n = s.n := rfl
@[simp] theorem State.setB_cnt (s : State) (x : Byte) : (s.setB x).cnt = s.cnt := rfl
@[simp] theorem State.setB_r1 (s : State) (x : Byte) : (s.setB x).r1 = s.r1 := rfl
@[simp] theorem State.setB_answered (s : State) (x : Byte) : (s.setB x).answered = s.answered := rfl
@[simp] theorem State.setB_echo (s : State) (x : Byte) : (s.setB x).echo = s.echo := rfl
@[simp] theorem State.setB_sector (s : State) (x : Byte) : (s.setB x).sector = s.sector := rfl
@[simp] theorem State.setB_b (s : State) (x : Byte) : (s.setB x).b = x := rfl
@[simp] theorem State.setB_dev (s : State) (x : Byte) : (s.setB x).dev = s.dev := rfl
@[simp] theorem State.setB_xbuf (s : State) (x : Byte) : (s.setB x).xbuf = s.xbuf := rfl
@[simp] theorem State.setB_csd (s : State) (x : Byte) : (s.setB x).csd = s.csd := rfl
@[simp] theorem State.setB_busAsserted (s : State) (x : Byte) : (s.setB x).busAsserted = s.busAsserted := rfl
@[simp] theorem State.setB_done (s : State) (x : Byte) : (s.setB x).done = s.done := rfl
@[simp] theorem State.setB_resOk (s : State) (x : Byte) : (s.setB x).resOk = s.resOk := rfl
@[simp] theorem State.setB_nextAddr (s : State) (x : Byte) : (s.setB x).nextAddr = s.nextAddr := rfl
@[simp] theorem State.setB_framed (s : State) (x : Byte) : (s.setB x).framed = s.framed := rfl
@[simp] theorem State.setB_mem (s : State) (x : Byte) : (s.setB x).mem = s.mem := rfl
@[simp] theorem State.setB_cfg (s : State) (x : Byte) : (s.setB x).cfg = s.cfg := rfl
@[simp] theorem State.setB_env (s : State) (x : Byte) : (s.setB x).env = s.env := rfl
@[simp] theorem State.setB_inputs (s : State) (x : Byte) : (s.setB x).inputs = s.inputs := rfl
@[simp] theorem State.setB_trace (s : State) (x : Byte) : (s.setB x).trace = s.trace := rfl

@[simp] theorem State.setF_st (s : State) (v : Vector Byte 6) : (s.setF v).st = s.st := rfl
@[simp] theorem State.setF_op (s : State) (v : Vector Byte 6) : (s.setF v).op = s.op := rfl
@[simp] theorem State.setF_idx (s : State) (v : Vector Byte 6) : (s.setF v).idx = s.idx := rfl
@[simp] theorem State.setF_arg (s : State) (v : Vector Byte 6) : (s.setF v).arg = s.arg := rfl
@[simp] theorem State.setF_extra (s : State) (v : Vector Byte 6) : (s.setF v).extra = s.extra := rfl
@[simp] theorem State.setF_dbg (s : State) (v : Vector Byte 6) : (s.setF v).dbg = s.dbg := rfl
@[simp] theorem State.setF_f (s : State) (v : Vector Byte 6) : (s.setF v).f = v := rfl
@[simp] theorem State.setF_n (s : State) (v : Vector Byte 6) : (s.setF v).n = s.n := rfl
@[simp] theorem State.setF_cnt (s : State) (v : Vector Byte 6) : (s.setF v).cnt = s.cnt := rfl
@[simp] theorem State.setF_r1 (s : State) (v : Vector Byte 6) : (s.setF v).r1 = s.r1 := rfl
@[simp] theorem State.setF_answered (s : State) (v : Vector Byte 6) : (s.setF v).answered = s.answered := rfl
@[simp] theorem State.setF_echo (s : State) (v : Vector Byte 6) : (s.setF v).echo = s.echo := rfl
@[simp] theorem State.setF_sector (s : State) (v : Vector Byte 6) : (s.setF v).sector = s.sector := rfl
@[simp] theorem State.setF_b (s : State) (v : Vector Byte 6) : (s.setF v).b = s.b := rfl
@[simp] theorem State.setF_dev (s : State) (v : Vector Byte 6) : (s.setF v).dev = s.dev := rfl
@[simp] theorem State.setF_xbuf (s : State) (v : Vector Byte 6) : (s.setF v).xbuf = s.xbuf := rfl
@[simp] theorem State.setF_csd (s : State) (v : Vector Byte 6) : (s.setF v).csd = s.csd := rfl
@[simp] theorem State.setF_busAsserted (s : State) (v : Vector Byte 6) : (s.setF v).busAsserted = s.busAsserted := rfl
@[simp] theorem State.setF_done (s : State) (v : Vector Byte 6) : (s.setF v).done = s.done := rfl
@[simp] theorem State.setF_resOk (s : State) (v : Vector Byte 6) : (s.setF v).resOk = s.resOk := rfl
@[simp] theorem State.setF_nextAddr (s : State) (v : Vector Byte 6) : (s.setF v).nextAddr = s.nextAddr := rfl
@[simp] theorem State.setF_framed (s : State) (v : Vector Byte 6) : (s.setF v).framed = s.framed := rfl
@[simp] theorem State.setF_mem (s : State) (v : Vector Byte 6) : (s.setF v).mem = s.mem := rfl
@[simp] theorem State.setF_cfg (s : State) (v : Vector Byte 6) : (s.setF v).cfg = s.cfg := rfl
@[simp] theorem State.setF_env (s : State) (v : Vector Byte 6) : (s.setF v).env = s.env := rfl
@[simp] theorem State.setF_inputs (s : State) (v : Vector Byte 6) : (s.setF v).inputs = s.inputs := rfl
@[simp] theorem State.setF_trace (s : State) (v : Vector Byte 6) : (s.setF v).trace = s.trace := rfl

@[simp] theorem State.setXbuf_st (s : State) (l : List Byte) : (s.setXbuf l).st = s.st := rfl
@[simp] theorem State.setXbuf_op (s : State) (l : List Byte) : (s.setXbuf l).op = s.op := rfl
@[simp] theorem State.setXbuf_idx (s : State) (l : List Byte) : (s.setXbuf l).idx = s.idx := rfl
@[simp] theorem State.setXbuf_arg (s : State) (l : List Byte) : (s.setXbuf l).arg = s.arg := rfl
@[simp] theorem State.setXbuf_extra (s : State) (l : List Byte) : (s.setXbuf l).extra = s.extra := rfl
@[simp] theorem State.setXbuf_dbg (s : State) (l : List Byte) : (s.setXbuf l).dbg = s.dbg := rfl
@[simp] theorem State.setXbuf_f (s : State) (l : List Byte) : (s.setXbuf l).f = s.f := rfl
@[simp] theorem State.setXbuf_n (s : State) (l : List Byte) : (s.setXbuf l).n = s.n := rfl
@[simp] theorem State.setXbuf_cnt (s : State) (l : List Byte) : (s.setXbuf l).cnt = s.cnt := rfl
@[simp] theorem State.setXbuf_r1 (s : State) (l : List Byte) : (s.setXbuf l).r1 = s.r1 := rfl
@[simp] theorem State.setXbuf_answered (s : State) (l : List Byte) : (s.setXbuf l).answered = s.answered := rfl
@[simp] theorem State.setXbuf_echo (s : State) (l : List Byte) : (s.setXbuf l).echo = s.echo := rfl
@[simp] theorem State.setXbuf_sector (s : State) (l : List Byte) : (s.setXbuf l).sector = s.sector := rfl
@[simp] theorem State.setXbuf_b (s : State) (l : List Byte) : (s.setXbuf l).b = s.b := rfl
@[simp] theorem State.setXbuf_dev (s : State) (l : List Byte) : (s.setXbuf l).dev = s.dev := rfl
@[simp] theorem State.setXbuf_xbuf (s : State) (l : List Byte) : (s.setXbuf l).xbuf = l := rfl
@[simp] theorem State.setXbuf_csd (s : State) (l : List Byte) : (s.setXbuf l).csd = s.csd := rfl
@[simp] theorem State.setXbuf_busAsserted (s : State) (l : List Byte) : (s.setXbuf l).busAsserted = s.busAsserted := rfl
@[simp] theorem State.setXbuf_done (s : State) (l : List Byte) : (s.setXbuf l).done = s.done := rfl
@[simp] theorem State.setXbuf_resOk (s : State) (l : List Byte) : (s.setXbuf l).resOk = s.resOk := rfl
@[simp] theorem State.setXbuf_nextAddr (s : State) (l : List Byte) : (s.setXbuf l).nextAddr = s.nextAddr := rfl
@[simp] theorem State.setXbuf_framed (s : State) (l : List Byte) : (s.setXbuf l).framed = s.framed := rfl
@[simp] theorem State.setXbuf_mem (s : State) (l : List Byte) : (s.setXbuf l).mem = s.mem := rfl
@[simp] theorem State.setXbuf_cfg (s : State) (l : List Byte) : (s.setXbuf l).cfg = s.cfg := rfl
@[simp] theorem State.setXbuf_env (s : State) (l : List Byte) : (s.setXbuf l).env = s.env := rfl
@[simp] theorem State.setXbuf_inputs (s : State) (l : List Byte) : (s.setXbuf l).inputs = s.inputs := rfl
@[simp] theorem State.setXbuf_trace (s : State) (l : List Byte) : (s.setXbuf l).trace = s.trace := rfl

@[simp] theorem State.setCsd_st (s : State) (l : List Byte) : (s.setCsd l).st = s.st := rfl
@[simp] theorem State.setCsd_op (s : State) (l : List Byte) : (s.setCsd l).op = s.op := rfl
@[simp] theorem State.setCsd_idx (s : State) (l : List Byte) : (s.setCsd l).idx = s.idx := rfl
@[simp] theorem State.setCsd_arg (s : State) (l : List Byte) : (s.setCsd l).arg = s.arg := rfl
@[simp] theorem State.setCsd_extra (s : State) (l : List Byte) : (s.setCsd l).extra = s.extra := rfl
@[simp] theorem State.setCsd_dbg (s : State) (l : List Byte) : (s.setCsd l).dbg = s.dbg := rfl
@[simp] theorem State.setCsd_f (s : State) (l : List Byte) : (s.setCsd l).f = s.f := rfl
@[simp] theorem State.setCsd_n (s : State) (l : List Byte) : (s.setCsd l).n = s.n := rfl
@[simp] theorem State.setCsd_cnt (s : State) (l : List Byte) : (s.setCsd l).cnt = s.cnt := rfl
@[simp] theorem State.setCsd_r1 (s : State) (l : List Byte) : (s.setCsd l).r1 = s.r1 := rfl
@[simp] theorem State.setCsd_answered (s : State) (l : List Byte) : (s.setCsd l).answered = s.answered := rfl
@[simp] theorem State.setCsd_echo (s : State) (l : List Byte) : (s.setCsd l).echo = s.echo := rfl
@[simp] theorem State.setCsd_sector (s : State) (l : List Byte) : (s.setCsd l).sector = s.sector := rfl
@[simp] theorem State.setCsd_b (s : State) (l : List Byte) : (s.setCsd l).b = s.b := rfl
@[simp] theorem State.setCsd_dev (s : State) (l : List Byte) : (s.setCsd l).dev = s.dev := rfl
@[simp] theorem State.setCsd_xbuf (s : State) (l : List Byte) : (s.setCsd l).xbuf = s.xbuf := rfl
@[simp] theorem State.setCsd_csd (s : State) (l : List Byte) : (s.setCsd l).csd = l := rfl
@[simp] theorem State.setCsd_busAsserted (s : State) (l : List Byte) : (s.setCsd l).busAsserted = s.busAsserted := rfl
@[simp] theorem State.setCsd_done (s : State) (l : List Byte) : (s.setCsd l).done = s.done := rfl
@[simp] theorem State.setCsd_resOk (s : State) (l : List Byte) : (s.setCsd l).resOk = s.resOk := rfl
@[simp] theorem State.setCsd_nextAddr (s : State) (l : List Byte) : (s.setCsd l).nextAddr = s.nextAddr := rfl
@[simp] theorem State.setCsd_framed (s : State) (l : List Byte) : (s.setCsd l).framed = s.framed := rfl
@[simp] theorem State.setCsd_mem (s : State) (l : List Byte) : (s.setCsd l).mem = s.mem := rfl
@[simp] theorem State.setCsd_cfg (s : State) (l : List Byte) : (s.setCsd l).cfg = s.cfg := rfl
@[simp] theorem State.setCsd_env (s : State) (l : List Byte) : (s.setCsd l).env = s.env := rfl
@[simp] theorem State.setCsd_inputs (s : State) (l : List Byte) : (s.setCsd l).inputs = s.inputs := rfl
@[simp] theorem State.setCsd_trace (s : State) (l : List Byte) : (s.setCsd l).trace = s.trace := rfl

@[simp] theorem State.setEcho_st (s : State) (e : Bool) : (s.setEcho e).st = s.st := rfl
@[simp] theorem State.setEcho_op (s : State) (e : Bool) : (s.setEcho e).op = s.op := rfl
@[simp] theorem State.setEcho_idx (s : State) (e : Bool) : (s.setEcho e).idx = s.idx := rfl
@[simp] theorem State.setEcho_arg (s : State) (e : Bool) : (s.setEcho e).arg = s.arg := rfl
@[simp] theorem State.setEcho_extra (s : State) (e : Bool) : (s.setEcho e).extra = s.extra := rfl
@[simp] theorem State.setEcho_dbg (s : State) (e : Bool) : (s.setEcho e).dbg = s.dbg := rfl
@[simp] theorem State.setEcho_f (s : State) (e : Bool) : (s.setEcho e).f = s.f := rfl
@[simp] theorem State.setEcho_n (s : State) (e : Bool) : (s.setEcho e).n = s.n := rfl
@[simp] theorem State.setEcho_cnt (s : State) (e : Bool) : (s.setEcho e).cnt = s.cnt := rfl
@[simp] theorem State.setEcho_r1 (s : State) (e : Bool) : (s.setEcho e).r1 = s.r1 := rfl
@[simp] theorem State.setEcho_answered (s : State) (e : Bool) : (s.setEcho e).answered = s.answered := rfl
@[simp] theorem State.setEcho_echo (s : State) (e : Bool) : (s.setEcho e).echo = e := rfl
@[simp] theorem State.setEcho_sector (s : State) (e : Bool) : (s.setEcho e).sector = s.sector := rfl
@[simp] theorem State.setEcho_b (s : State) (e : Bool) : (s.setEcho e).b = s.b := rfl
@[simp] theorem State.setEcho_dev (s : State) (e : Bool) : (s.setEcho e).dev = s.dev := rfl
@[simp] theorem State.setEcho_xbuf (s : State) (e : Bool) : (s.setEcho e).xbuf = s.xbuf := rfl
@[simp] theorem State.setEcho_csd (s : State) (e : Bool) : (s.setEcho e).csd = s.csd := rfl
@[simp] theorem State.setEcho_busAsserted (s : State) (e : Bool) : (s.setEcho e).busAsserted = s.busAsserted := rfl
@[simp] theorem State.setEcho_done (s : State) (e : Bool) : (s.setEcho e).done = s.done := rfl
@[simp] theorem State.setEcho_resOk (s : State) (e : Bool) : (s.setEcho e).resOk = s.resOk := rfl
@[simp] theorem State.setEcho_nextAddr (s : State) (e : Bool) : (s.setEcho e).nextAddr = s.nextAddr := rfl
@[simp] theorem State.setEcho_framed (s : State) (e : Bool) : (s.setEcho e).framed = s.framed := rfl
@[simp] theorem State.setEcho_mem (s : State) (e : Bool) : (s.setEcho e).mem = s.mem := rfl
@[simp] theorem State.setEcho_cfg (s : State) (e : Bool) : (s.setEcho e).cfg = s.cfg := rfl
@[simp] theorem State.setEcho_env (s : State) (e : Bool) : (s.setEcho e).env = s.env := rfl
@[simp] theorem State.setEcho_inputs (s : State) (e : Bool) : (s.setEcho e).inputs = s.inputs := rfl
@[simp] theorem State.setEcho_trace (s : State) (e : Bool) : (s.setEcho e).trace = s.trace := rfl

@[simp] theorem State.setSector_st (s : State) (a : Word32) : (s.setSector a).st = s.st := rfl
@[simp] theorem State.setSector_op (s : State) (a : Word32) : (s.setSector a).op = s.op := rfl
@[simp] theorem State.setSector_idx (s : State) (a : Word32) : (s.setSector a).idx = s.idx := rfl
@[simp] theorem State.setSector_arg (s : State) (a : Word32) : (s.setSector a).arg = s.arg := rfl
@[simp] theorem State.setSector_extra (s : State) (a : Word32) : (s.setSector a).extra = s.extra := rfl
@[simp] theorem State.setSector_dbg (s : State) (a : Word32) : (s.setSector a).dbg = s.dbg := rfl
@[simp] theorem State.setSector_f (s : State) (a : Word32) : (s.setSector a).f = s.f := rfl
@[simp] theorem State.setSector_n (s : State) (a : Word32) : (s.setSector a).n = s.n := rfl
@[simp] theorem State.setSector_cnt (s : State) (a : Word32) : (s.setSector a).cnt = s.cnt := rfl
@[simp] theorem State.setSector_r1 (s : State) (a : Word32) : (s.setSector a).r1 = s.r1 := rfl
@[simp] theorem State.setSector_answered (s : State) (a : Word32) : (s.setSector a).answered = s.answered := rfl
@[simp] theorem State.setSector_echo (s : State) (a : Word32) : (s.setSector a).echo = s.echo := rfl
@[simp] theorem State.setSector_sector (s : State) (a : Word32) : (s.setSector a).sector = a := rfl
@[simp] theorem State.setSector_b (s : State) (a : Word32) : (s.setSector a).b = s.b := rfl
@[simp] theorem State.setSector_dev (s : State) (a : Word32) : (s.setSector a).dev = s.dev := rfl
@[simp] theorem State.setSector_xbuf (s : State) (a : Word32) : (s.setSector a).xbuf = s.xbuf := rfl
@[simp] theorem State.setSector_csd (s : State) (a : Word32) : (s.setSector a).csd = s.csd := rfl
@[simp] theorem State.setSector_busAsserted (s : State) (a : Word32) : (s.setSector a).busAsserted = s.busAsserted := rfl
@[simp] theorem State.setSector_done (s : State) (a : Word32) : (s.setSector a).done = s.done := rfl
@[simp] theorem State.setSector_resOk (s : State) (a : Word32) : (s.setSector a).resOk = s.resOk := rfl
@[simp] theorem State.setSector_nextAddr (s : State) (a : Word32) : (s.setSector a).nextAddr = s.nextAddr := rfl
@[simp] theorem State.setSector_framed (s : State) (a : Word32) : (s.setSector a).framed = s.framed := rfl
@[simp] theorem State.setSector_mem (s : State) (a : Word32) : (s.setSector a).mem = s.mem := rfl
@[simp] theorem State.setSector_cfg (s : State) (a : Word32) : (s.setSector a).cfg = s.cfg := rfl
@[simp] theorem State.setSector_env (s : State) (a : Word32) : (s.setSector a).env = s.env := rfl
@[simp] theorem State.setSector_inputs (s : State) (a : Word32) : (s.setSector a).inputs = s.inputs := rfl
@[simp] theorem State.setSector_trace (s : State) (a : Word32) : (s.setSector a).trace = s.trace := rfl

@[simp] theorem State.setNextAddr_st (s : State) (a : Word32) : (s.setNextAddr a).st = s.st := rfl
@[simp] theorem State.setNextAddr_op (s : State) (a : Word32) : (s.setNextAddr a).op = s.op := rfl
@[simp] theorem State.setNextAddr_idx (s : State) (a : Word32) : (s.setNextAddr a).idx = s.idx := rfl
@[simp] theorem State.setNextAddr_arg (s : State) (a : Word32) : (s.setNextAddr a).arg = s.arg := rfl
@[simp] theorem State.setNextAddr_extra (s : State) (a : Word32) : (s.setNextAddr a).extra = s.extra := rfl
@[simp] theorem State.setNextAddr_dbg (s : State) (a : Word32) : (s.setNextAddr a).dbg = s.dbg := rfl
@[simp] theorem State.setNextAddr_f (s : State) (a : Word32) : (s.setNextAddr a).f = s.f := rfl
@[simp] theorem State.setNextAddr_n (s : State) (a : Word32) : (s.setNextAddr a).n = s.n := rfl
@[simp] theorem State.setNextAddr_cnt (s : State) (a : Word32) : (s.setNextAddr a).cnt = s.cnt := rfl
@[simp] theorem State.setNextAddr_r1 (s : State) (a : Word32) : (s.setNextAddr a).r1 = s.r1 := rfl
@[simp] theorem State.setNextAddr_answered (s : State) (a : Word32) : (s.setNextAddr a).answered = s.answered := rfl
@[simp] theorem State.setNextAddr_echo (s : State) (a : Word32) : (s.setNextAddr a).echo = s.echo := rfl
@[simp] theorem State.setNextAddr_sector (s : State) (a : Word32) : (s.setNextAddr a).sector = s.sector := rfl
@[simp] theorem State.setNextAddr_b (s : State) (a : Word32) : (s.setNextAddr a).b = s.b := rfl
@[simp] theorem State.setNextAddr_dev (s : State) (a : Word32) : (s.setNextAddr a).dev = s.dev := rfl
@[simp] theorem State.setNextAddr_xbuf (s : State) (a : Word32) : (s.setNextAddr a).xbuf = s.xbuf := rfl
@[simp] theorem State.setNextAddr_csd (s : State) (a : Word32) : (s.setNextAddr a).csd = s.csd := rfl
@[simp] theorem State.setNextAddr_busAsserted (s : State) (a : Word32) : (s.setNextAddr a).busAsserted = s.busAsserted := rfl
@[simp] theorem State.setNextAddr_done (s : State) (a : Word32) : (s.setNextAddr a).done = s.done := rfl
@[simp] theorem State.setNextAddr_resOk (s : State) (a : Word32) : (s.setNextAddr a).resOk = s.resOk := rfl
@[simp] theorem State.setNextAddr_nextAddr (s : State) (a : Word32) : (s.setNextAddr a).nextAddr = a := rfl
@[simp] theorem State.setNextAddr_framed (s : State) (a : Word32) : (s.setNextAddr a).framed = s.framed := rfl
@[simp] theorem State.setNextAddr_mem (s : State) (a : Word32) : (s.setNextAddr a).mem = s.mem := rfl
@[simp] theorem State.setNextAddr_cfg (s : State) (a : Word32) : (s.setNextAddr a).cfg = s.cfg := rfl
@[simp] theorem State.setNextAddr_env (s : State) (a : Word32) : (s.setNextAddr a).env = s.env := rfl
@[simp] theorem State.setNextAddr_inputs (s : State) (a : Word32) : (s.setNextAddr a).inputs = s.inputs := rfl
@[simp] theorem State.setNextAddr_trace (s : State) (a : Word32) : (s.setNextAddr a).trace = s.trace := rfl

@[simp] theorem State.setDev_st (s : State) (d : DeviceHandle) : (s.setDev d).st = s.st := rfl
@[simp] theorem State.setDev_op (s : State) (d : DeviceHandle) : (s.setDev d).op = s.op := rfl
@[simp] theorem State.setDev_idx (s : State) (d : DeviceHandle) : (s.setDev d).idx = s.idx := rfl
@[simp] theorem State.setDev_arg (s : State) (d : DeviceHandle) : (s.setDev d).arg = s.arg := rfl
@[simp] theorem State.setDev_extra (s : State) (d : DeviceHandle) : (s.setDev d).extra = s.extra := rfl
@[simp] theorem State.setDev_dbg (s : State) (d : DeviceHandle) : (s.setDev d).dbg = s.dbg := rfl
@[simp] theorem State.setDev_f (s : State) (d : DeviceHandle) : (s.setDev d).f = s.f := rfl
@[simp] theorem State.setDev_n (s : State) (d : DeviceHandle) : (s.setDev d).n = s.n := rfl
@[simp] theorem State.setDev_cnt (s : State) (d : DeviceHandle) : (s.setDev d).cnt = s.cnt := rfl
@[simp] theorem State.setDev_r1 (s : State) (d : DeviceHandle) : (s.setDev d).r1 = s.r1 := rfl
@[simp] theorem State.setDev_answered (s : State) (d : DeviceHandle) : (s.setDev d).answered = s.answered := rfl
@[simp] theorem State.setDev_echo (s : State) (d : DeviceHandle) : (s.setDev d).echo = s.echo := rfl
@[simp] theorem State.setDev_sector (s : State) (d : DeviceHandle) : (s.setDev d).sector = s.sector := rfl
@[simp] theorem State.setDev_b (s : State) (d : DeviceHandle) : (s.setDev d).b = s.b := rfl
@[simp] theorem State.setDev_dev (s : State) (d : DeviceHandle) : (s.setDev d).dev = d := rfl
@[simp] theorem State.setDev_xbuf (s : State) (d : DeviceHandle) : (s.setDev d).xbuf = s.xbuf := rfl
@[simp] theorem State.setDev_csd (s : State) (d : DeviceHandle) : (s.setDev d).csd = s.csd := rfl
@[simp] theorem State.setDev_busAsserted (s : State) (d : DeviceHandle) : (s.setDev d).busAsserted = s.busAsserted := rfl
@[simp] theorem State.setDev_done (s : State) (d : DeviceHandle) : (s.setDev d).done = s.done := rfl
@[simp] theorem State.setDev_resOk (s : State) (d : DeviceHandle) : (s.setDev d).resOk = s.resOk := rfl
@[simp] theorem State.setDev_nextAddr (s : State) (d : DeviceHandle) : (s.setDev d).nextAddr = s.nextAddr := rfl
@[simp] theorem State.setDev_framed (s : State) (d : DeviceHandle) : (s.setDev d).framed = s.framed := rfl
@[simp] theorem State.setDev_mem (s : State) (d : DeviceHandle) : (s.setDev d).mem = s.mem := rfl
@[simp] theorem State.setDev_cfg (s : State) (d : DeviceHandle) : (s.setDev d).cfg = s.cfg := rfl
@[simp] theorem State.setDev_env (s : State) (d : DeviceHandle) : (s.setDev d).env = s.env := rfl
@[simp] theorem State.setDev_inputs (s : State) (d : DeviceHandle) : (s.setDev d).inputs = s.inputs := rfl
@[simp] theorem State.setDev_trace (s : State) (d : DeviceHandle) : (s.setDev d).trace = s.trace := rfl

@[simp] theorem State.startOp_st (s : State) (o : BitVec 2) (d : Bool) : (s.startOp o d).st = s.st := rfl
@[simp] theorem State.startOp_op (s : State) (o : BitVec 2) (d : Bool) : (s.startOp o d).op = o := rfl
@[simp] theorem State.startOp_idx (s : State) (o : BitVec 2) (d : Bool) : (s.startOp o d).idx = s.idx := rfl
@[simp] theorem State.startOp_arg (s : State) (o : BitVec 2) (d : Bool) : (s.startOp o d).arg = s.arg := rfl
@[simp] theorem State.startOp_extra (s : State) (o : BitVec 2) (d : Bool) : (s.startOp o d).extra = s.extra := rfl
@[simp] theorem State.startOp_dbg (s : State) (o : BitVec 2) (d : Bool) : (s.startOp o d).dbg = d := rfl
@[simp] theorem State.startOp_f (s : State) (o : BitVec 2) (d : Bool) : (s.startOp o d).f = s.f := rfl
@[simp] theorem State.startOp_n (s : State) (o : BitVec 2) (d : Bool) : (s.startOp o d).n = s.n := rfl
@[simp] theorem State.startOp_cnt (s : State) (o : BitVec 2) (d : Bool) : (s.startOp o d).cnt = s.cnt := rfl
@[simp] theorem State.startOp_r1 (s : State) (o : BitVec 2) (d : Bool) : (s.startOp o d).r1 = s.r1 := rfl
@[simp] theorem State.startOp_answered (s : State) (o : BitVec 2) (d : Bool) : (s.startOp o d).answered = s.answered := rfl
@[simp] theorem State.startOp_echo (s : State) (o : BitVec 2) (d : Bool) : (s.startOp o d).echo = s.echo := rfl
@[simp] theorem State.startOp_sector (s : State) (o : BitVec 2) (d : Bool) : (s.startOp o d).sector = s.sector := rfl
@[simp] theorem State.startOp_b (s : State) (o : BitVec 2) (d : Bool) : (s.startOp o d).b = s.b := rfl
@[simp] theorem State.startOp_dev (s : State) (o : BitVec 2) (d : Bool) : (s.startOp o d).dev = s.dev := rfl
@[simp] theorem State.startOp_xbuf (s : State) (o : BitVec 2) (d : Bool) : (s.startOp o d).xbuf = s.xbuf := rfl
@[simp] theorem State.startOp_csd (s : State) (o : BitVec 2) (d : Bool) : (s.startOp o d).csd = s.csd := rfl
@[simp] theorem State.startOp_busAsserted (s : State) (o : BitVec 2) (d : Bool) : (s.startOp o d).busAsserted = s.busAsserted := rfl
@[simp] theorem State.startOp_done (s : State) (o : BitVec 2) (d : Bool) : (s.startOp o d).done = false := rfl
@[simp] theorem State.startOp_resOk (s : State) (o : BitVec 2) (d : Bool) : (s.startOp o d).resOk = s.resOk := rfl
@[simp] theorem State.startOp_nextAddr (s : State) (o : BitVec 2) (d : Bool) : (s.startOp o d).nextAddr = s.nextAddr := rfl
@[simp] theorem State.startOp_framed (s : State) (o : BitVec 2) (d : Bool) : (s.startOp o d).framed = s.framed := rfl
@[simp] theorem State.startOp_mem (s : State) (o : BitVec 2) (d : Bool) : (s.startOp o d).mem = s.mem := rfl
@[simp] theorem State.startOp_cfg (s : State) (o : BitVec 2) (d : Bool) : (s.startOp o d).cfg = s.cfg := rfl
@[simp] theorem State.startOp_env (s : State) (o : BitVec 2) (d : Bool) : (s.startOp o d).env = s.env := rfl
@[simp] theorem State.startOp_inputs (s : State) (o : BitVec 2) (d : Bool) : (s.startOp o d).inputs = s.inputs := rfl
@[simp] theorem State.startOp_trace (s : State) (o : BitVec 2) (d : Bool) : (s.startOp o d).trace = s.trace := rfl

@[simp] theorem State.finish_st (s : State) (ok : Bool) : (s.finish ok).st = .idle := rfl
@[simp] theorem State.finish_op (s : State) (ok : Bool) : (s.finish ok).op = s.op := rfl
@[simp] theorem State.finish_idx (s : State) (ok : Bool) : (s.finish ok).idx = s.idx := rfl
@[simp] theorem State.finish_arg (s : State) (ok : Bool) : (s.finish ok).arg = s.arg := rfl
@[simp] theorem State.finish_extra (s : State) (ok : Bool) : (s.finish ok).extra = s.extra := rfl
@[simp] theorem State.finish_dbg (s : State) (ok : Bool) : (s.finish ok).dbg = s.dbg := rfl
@[simp] theorem State.finish_f (s : State) (ok : Bool) : (s.finish ok).f = s.f := rfl
@[simp] theorem State.finish_n (s : State) (ok : Bool) : (s.finish ok).n = s.n := rfl
@[simp] theorem State.finish_cnt (s : State) (ok : Bool) : (s.finish ok).cnt = s.cnt := rfl
@[simp] theorem State.finish_r1 (s : State) (ok : Bool) : (s.finish ok).r1 = s.r1 := rfl
@[simp] theorem State.finish_answered (s : State) (ok : Bool) : (s.finish ok).answered = s.answered := rfl
@[simp] theorem State.finish_echo (s : State) (ok : Bool) : (s.finish ok).echo = s.echo := rfl
@[simp] theorem State.finish_sector (s : State) (ok : Bool) : (s.finish ok).sector = s.sector := rfl
@[simp] theorem State.finish_b (s : State) (ok : Bool) : (s.finish ok).b = s.b := rfl
@[simp] theorem State.finish_dev (s : State) (ok : Bool) : (s.finish ok).dev = s.dev := rfl
@[simp] theorem State.finish_xbuf (s : State) (ok : Bool) : (s.finish ok).xbuf = s.xbuf := rfl
@[simp] theorem State.finish_csd (s : State) (ok : Bool) : (s.finish ok).csd = s.csd := rfl
@[simp] theorem State.finish_busAsserted (s : State) (ok : Bool) : (s.finish ok).busAsserted = s.busAsserted := rfl
@[simp] theorem State.finish_done (s : State) (ok : Bool) : (s.finish ok).done = true := rfl
@[simp] theorem State.finish_resOk (s : State) (ok : Bool) : (s.finish ok).resOk = ok := rfl
@[simp] theorem State.finish_nextAddr (s : State) (ok : Bool) : (s.finish ok).nextAddr = s.nextAddr := rfl
@[simp] theorem State.finish_framed (s : State) (ok : Bool) : (s.finish ok).framed = s.framed := rfl
@[simp] theorem State.finish_mem (s : State) (ok : Bool) : (s.finish ok).mem = s.mem := rfl
@[simp] theorem State.finish_cfg (s : State) (ok : Bool) : (s.finish ok).cfg = s.cfg := rfl
@[simp] theorem State.finish_env (s : State) (ok : Bool) : (s.finish ok).env = s.env := rfl
@[simp] theorem State.finish_inputs (s : State) (ok : Bool) : (s.finish ok).inputs = s.inputs := rfl
@[simp] theorem State.finish_trace (s : State) (ok : Bool) : (s.finish ok).trace = s.trace := rfl

@[simp] theorem callFramer_st (c : Caller) (i : BitVec 6) (a : Word32) (x : Byte) (s : State) : (callFramer c i a x s).st = .framer c .assert := rfl
@[simp] theorem callFramer_op (c : Caller) (i : BitVec 6) (a : Word32) (x : Byte) (s : State) : (callFramer c i a x s).op = s.op := rfl
@[simp] theorem callFramer_idx (c : Caller) (i : BitVec 6) (a : Word32) (x : Byte) (s : State) : (callFramer c i a x s).idx = i := rfl
@[simp] theorem callFramer_arg (c : Caller) (i : BitVec 6) (a : Word32) (x : Byte) (s : State) : (callFramer c i a x s).arg = a := rfl
@[simp] theorem callFramer_extra (c : Caller) (i : BitVec 6) (a : Word32) (x : Byte) (s : State) : (callFramer c i a x s).extra = x := rfl
@[simp] theorem callFramer_dbg (c : Caller) (i : BitVec 6) (a : Word32) (x : Byte) (s : State) : (callFramer c i a x s).dbg = s.dbg := rfl
@[simp] theorem callFramer_f (c : Caller) (i : BitVec 6) (a : Word32) (x : Byte) (s : State) : (callFramer c i a x s).f = s.f := rfl
@[simp] theorem callFramer_n (c : Caller) (i : BitVec 6) (a : Word32) (x : Byte) (s : State) : (callFramer c i a x s).n = s.n := rfl
@[simp] theorem callFramer_cnt (c : Caller) (i : BitVec 6) (a : Word32) (x : Byte) (s : State) : (callFramer c i a x s).cnt = s.cnt := rfl
@[simp] theorem callFramer_r1 (c : Caller) (i : BitVec 6) (a : Word32) (x : Byte) (s : State) : (callFramer c i a x s).r1 = s.r1 := rfl
@[simp] theorem callFramer_answered (c : Caller) (i : BitVec 6) (a : Word32) (x : Byte) (s : State) : (callFramer c i a x s).answered = s.answered := rfl
@[simp] theorem callFramer_echo (c : Caller) (i : BitVec 6) (a : Word32) (x : Byte) (s : State) : (callFramer c i a x s).echo = s.echo := rfl
@[simp] theorem callFramer_sector (c : Caller) (i : BitVec 6) (a : Word32) (x : Byte) (s : State) : (callFramer c i a x s).sector = s.sector := rfl
@[simp] theorem callFramer_b (c : Caller) (i : BitVec 6) (a : Word32) (x : Byte) (s : State) : (callFramer c i a x s).b = s.b := rfl
@[simp] theorem callFramer_dev (c : Caller) (i : BitVec 6) (a : Word32) (x : Byte) (s : State) : (callFramer c i a x s).dev = s.dev := rfl
@[simp] theorem callFramer_xbuf (c : Caller) (i : BitVec 6) (a : Word32) (x : Byte) (s : State) : (callFramer c i a x s).xbuf = s.xbuf := rfl
@[simp] theorem callFramer_csd (c : Caller) (i : BitVec 6) (a : Word32) (x : Byte) (s : State) : (callFramer c i a x s).csd = s.csd := rfl
@[simp] theorem callFramer_busAsserted (c : Caller) (i : BitVec 6) (a : Word32) (x : Byte) (s : State) : (callFramer c i a x s).busAsserted = s.busAsserted := rfl
@[simp] theorem callFramer_done (c : Caller) (i : BitVec 6) (a : Word32) (x : Byte) (s : State) : (callFramer c i a x s).done = s.done := rfl
@[simp] theorem callFramer_resOk (c : Caller) (i : BitVec 6) (a : Word32) (x : Byte) (s : State) : (callFramer c i a x s).resOk = s.resOk := rfl
@[simp] theorem callFramer_nextAddr (c : Caller) (i : BitVec 6) (a : Word32) (x : Byte) (s : State) : (callFramer c i a x s).nextAddr = s.nextAddr := rfl
@[simp] theorem callFramer_framed (c : Caller) (i : BitVec 6) (a : Word32) (x : Byte) (s : State) : (callFramer c i a x s).framed = s.framed := rfl
@[simp] theorem callFramer_mem (c : Caller) (i : BitVec 6) (a : Word32) (x : Byte) (s : State) : (callFramer c i a x s).mem = s.mem := rfl
@[simp] theorem callFramer_cfg (c : Caller) (i : BitVec 6) (a : Word32) (x : Byte) (s : State) : (callFramer c i a x s).cfg = s.cfg := rfl
@[simp] theorem callFramer_env (c : Caller) (i : BitVec 6) (a : Word32) (x : Byte) (s : State) : (callFramer c i a x s).env = s.env := rfl
@[simp] theorem callFramer_inputs (c : Caller) (i : BitVec 6) (a : Word32) (x : Byte) (s : State) : (callFramer c i a x s).inputs = s.inputs := rfl
@[simp] theorem callFramer_trace (c : Caller) (i : BitVec 6) (a : Word32) (x : Byte) (s : State) : (callFramer c i a x s).trace = s.trace := rfl

end Sys2Proof.Machine
end

