-- ==== Sys2Proof/Laws/Ops.lean ====
section
/-! SUPPORT. What fault entry does, field by field (R225), and what it leaves alone. -/

namespace Sys2Proof.Machine

section FaultEntry
variable (e : FaultFlag) (s : State)

@[simp] theorem takeFault_st : (takeFault e s).st = .idle := rfl
@[simp] theorem takeFault_done : (takeFault e s).done = true := rfl
@[simp] theorem takeFault_resOk : (takeFault e s).resOk = false := rfl
@[simp] theorem takeFault_nextAddr :
    (takeFault e s).nextAddr = if e.isWriteFault then 0 else s.nextAddr := rfl
@[simp] theorem takeFault_dev :
    (takeFault e s).dev = s.dev.withStatus (faultStatus e s.dev.status) := rfl
@[simp] theorem takeFault_busAsserted : (takeFault e s).busAsserted = (s.busAsserted && !e.releasesBus) := rfl
@[simp] theorem takeFault_trace :
    (takeFault e s).trace = if e.releasesBus then .release :: s.trace else s.trace := rfl
@[simp] theorem takeFault_op : (takeFault e s).op = s.op := rfl
@[simp] theorem takeFault_idx : (takeFault e s).idx = s.idx := rfl
@[simp] theorem takeFault_arg : (takeFault e s).arg = s.arg := rfl
@[simp] theorem takeFault_extra : (takeFault e s).extra = s.extra := rfl
@[simp] theorem takeFault_dbg : (takeFault e s).dbg = s.dbg := rfl
@[simp] theorem takeFault_f : (takeFault e s).f = s.f := rfl
@[simp] theorem takeFault_n : (takeFault e s).n = s.n := rfl
@[simp] theorem takeFault_cnt : (takeFault e s).cnt = s.cnt := rfl
@[simp] theorem takeFault_r1 : (takeFault e s).r1 = s.r1 := rfl
@[simp] theorem takeFault_answered : (takeFault e s).answered = s.answered := rfl
@[simp] theorem takeFault_echo : (takeFault e s).echo = s.echo := rfl
@[simp] theorem takeFault_sector : (takeFault e s).sector = s.sector := rfl
@[simp] theorem takeFault_b : (takeFault e s).b = s.b := rfl
@[simp] theorem takeFault_xbuf : (takeFault e s).xbuf = s.xbuf := rfl
@[simp] theorem takeFault_csd : (takeFault e s).csd = s.csd := rfl
@[simp] theorem takeFault_framed : (takeFault e s).framed = s.framed := rfl
@[simp] theorem takeFault_mem : (takeFault e s).mem = s.mem := rfl
@[simp] theorem takeFault_cfg : (takeFault e s).cfg = s.cfg := rfl
@[simp] theorem takeFault_env : (takeFault e s).env = s.env := rfl
@[simp] theorem takeFault_inputs : (takeFault e s).inputs = s.inputs := rfl

end FaultEntry

end Sys2Proof.Machine
end

