-- ==== Sys2Proof/Laws/Sequencer.lean ====
section
/-! SUPPORT. What a step of the sequencer does: it writes neither memory nor the configuration nor the host's inputs,
and it brings the operation nearer to its return. -/

namespace Sys2Proof.Machine

theorem attemptsLeft_pos (c : Count) : 0 < attemptsLeft c := by
  unfold attemptsLeft
  split
  · decide
  · next h => exact Nat.pos_of_ne_zero fun h0 => h (by simpa using congrArg (BitVec.ofNat 16) h0)

/-- A failed attempt that is not the last takes one attempt away. -/
theorem attemptsLeft_pred {c : Count} (h : c - 1 ≠ 0) : attemptsLeft c = attemptsLeft (c - 1) + 1 := by
  unfold attemptsLeft
  rw [if_neg h]
  split
  · next h0 => subst h0; decide
  · next h0 =>
    have h1 : c.toNat ≠ 0 := fun h2 => h0 (by simpa using congrArg (BitVec.ofNat 16) h2)
    have h2 : (c - 1).toNat = c.toNat - 1 := by
      have := c.isLt
      rw [BitVec.toNat_sub]
      simp
      omega
    omega

theorem extraCount_le (x : Byte) : extraCount x ≤ 127 := by
  unfold extraCount
  have := BitVec.toInt_lt (x := x)
  simp at this
  omega

/-- What every step of the block leaves alone: the host's memory and inputs, and the configuration. -/
structure SameHost (s t : State) : Prop where
  mem : t.mem = s.mem
  cfg : t.cfg = s.cfg
  inputs : t.inputs = s.inputs

theorem SameHost.refl (s : State) : SameHost s s := ⟨rfl, rfl, rfl⟩
theorem SameHost.trans {s t u : State} (h : SameHost s t) (k : SameHost t u) : SameHost s u :=
  ⟨k.mem.trans h.mem, k.cfg.trans h.cfg, k.inputs.trans h.inputs⟩

theorem afterPoll_sameHost (c : Caller) (s : State) : SameHost s (afterPoll c s) := by
  unfold afterPoll framerTail
  split <;> [skip; split] <;> constructor <;> simp

theorem framerTick_sameHost (c : Caller) (p : FPhase) (s : State) : SameHost s (framerTick c p s) := by
  cases p with
  | assert => constructor <;> simp [framerTick, framerAssert]
  | frame i => simp only [framerTick, framerFrame, beginPoll]; split <;> constructor <;> simp
  | poll =>
    simp only [framerTick, framerPoll]
    split
    · exact afterPoll_sameHost c s
    · split
      · constructor <;> simp
      · have h := afterPoll_sameHost c (((s.xfer s.cfg.filler).setN (s.n + 1)).setToken s.inByte true)
        exact ⟨by simpa using h.mem, by simpa using h.cfg, by simpa using h.inputs⟩
  | extra i => constructor <;> simp [framerTick, framerExtra]
  | clean => constructor <;> simp [framerTick, framerClean]
  | release => constructor <;> simp [framerTick, framerRelease]

@[simp] theorem recordEcho_cfg (e : Bool) (s : State) : (recordEcho e s).cfg = s.cfg := rfl
@[simp] theorem enterOpcond_mem (s : State) : (enterOpcond s).mem = s.mem := by
  unfold enterOpcond enterOpcondHc enterOpcondLegacy; split <;> simp
@[simp] theorem enterOpcond_cfg (s : State) : (enterOpcond s).cfg = s.cfg := by
  unfold enterOpcond enterOpcondHc enterOpcondLegacy; split <;> simp
@[simp] theorem enterOpcond_inputs (s : State) : (enterOpcond s).inputs = s.inputs := by
  unfold enterOpcond enterOpcondHc enterOpcondLegacy; split <;> simp

theorem judge_sameHost (c : Caller) (s : State) : SameHost s (judge c s) := by
  constructor <;> cases c <;>
    simp only [judge, judgeGoIdle, judgeIfCond, judgeEcho, judgeLegacy, judgeOpcondHc, judgeReadOcr, judgeOpcondLegacy,
      judgeSendCsd, judgeWriteCmd, failedAttempt, recordEcho, enterIfCond, enterOpcondHc, enterOpcondLegacy,
      enterReadOcr, enterSetBlocklen, returnCmd_eq, returnInit_eq] <;>
    (repeat' split) <;> simp

theorem tick_sameHost (s : State) : SameHost s (tick s) := by
  unfold tick
  split
  case h_1 => exact .refl s
  case h_2 c p _ => exact framerTick_sameHost c p s
  case h_3 c _ => exact judge_sameHost c s
  all_goals
    constructor <;>
    (try simp only [checkPresent, checkWriteProt, pollCsdToken, judgeCsdToken, readDataResponse, judgeDataResponse, pollBusy, judgeBusy,
      failedAttempt, decodeRecord, storeCapacity, enterCrcOnOff, enterGoIdle, enterSendCsd, sendToken, sendPayload, sendCheck, sendCleanup,
      releaseWrite, markReady, readCsdByte, returnInit_eq, returnWrite_eq]) <;>
    (repeat' split) <;> simp

theorem framerSteps_bound (c : Config) (x : Byte) : c.cmdRetry.toNat + (extraCount x + 4) + 8 + 0 ≤ framerSteps c := by
  have := extraCount_le x
  unfold framerSteps
  omega

theorem ticksLeft_of_st {s : State} {p : Phase} (h : s.st = p) : ticksLeft s = ticksLeft (s.goto p) := by
  subst h; rfl

theorem pollLeft_pred {n r : Count} (h : n ≠ r) : (r - n).toNat = (r - (n + 1)).toNat + 1 := by
  have h1 : n.toNat ≠ r.toNat := fun h2 => h (BitVec.eq_of_toNat_eq h2)
  have hn := n.isLt
  have hr := r.isLt
  have h2 : (n + 1).toNat = (n.toNat + 1) % 65536 := by simp [BitVec.toNat_add]
  rw [BitVec.toNat_sub, BitVec.toNat_sub, h2]
  omega

theorem afterPoll_ticksLeft (c : Caller) (s : State) :
    ticksLeft (afterPoll c s) ≤ tailSteps s + callerLeft s c := by
  unfold afterPoll framerTail
  split
  · simp [ticksLeft, framerLeft, tailSteps]; cases c <;> simp [callerLeft]
  · split
    · simp [ticksLeft, tailSteps]; cases c <;> simp [callerLeft]
    · simp [ticksLeft, framerLeft, tailSteps]; cases c <;> simp [callerLeft]

theorem framerTick_ticksLeft (c : Caller) (p : FPhase) (s : State) (h : s.st = .framer c p) :
    ticksLeft (framerTick c p s) < ticksLeft s := by
  have hs : ticksLeft s = framerLeft s p + callerLeft s c := by simp [ticksLeft, h]
  rw [hs]
  cases p with
  | assert =>
    have e : callerLeft (framerAssert c s) c = callerLeft s c := by cases c <;> simp [callerLeft, framerAssert]
    simp only [framerTick]
    simp only [ticksLeft]
    simp [framerAssert, framerLeft, tailSteps] at e ⊢
    omega
  | frame i =>
    simp only [framerTick, framerFrame]
    split
    · next hi =>
      have e : callerLeft (beginPoll c (s.xfer s.f[5])) c = callerLeft s c := by cases c <;> simp [callerLeft, beginPoll]
      simp only [ticksLeft]
      simp [beginPoll, framerLeft, tailSteps] at e ⊢
      subst hi
      simp
      omega
    · next hi =>
      have e : callerLeft ((s.xfer s.f[i]).goto (.framer c (.frame (i + 1)))) c = callerLeft s c := by
        cases c <;> simp [callerLeft]
      simp [ticksLeft, framerLeft, tailSteps] at e ⊢
      have h1 : (i + 1).val = i.val + 1 := by omega
      have h2 := i.isLt
      omega
  | poll =>
    simp only [framerTick, framerPoll]
    split
    · have := afterPoll_ticksLeft c s
      simp only [framerLeft]
      omega
    · next hn =>
      have hp := pollLeft_pred hn
      split
      · have e : callerLeft ((s.xfer s.cfg.filler).setN (s.n + 1)) c = callerLeft s c := by
          cases c <;> simp [callerLeft]
        simp only [ticksLeft, State.setN_st, State.xfer_st, h, framerLeft, tailSteps, State.setN_cfg, State.xfer_cfg,
          State.setN_n, State.setN_extra, State.xfer_extra, e]
        omega
      · have := afterPoll_ticksLeft c (((s.xfer s.cfg.filler).setN (s.n + 1)).setToken s.inByte true)
        have e : callerLeft (((s.xfer s.cfg.filler).setN (s.n + 1)).setToken s.inByte true) c = callerLeft s c := by
          cases c <;> simp [callerLeft]
        simp only [framerLeft, tailSteps, State.setToken_extra, State.setN_extra, State.xfer_extra, e] at this ⊢
        omega
  | extra i =>
    have e : callerLeft (framerExtra c i s) c = callerLeft s c := by cases c <;> simp [callerLeft, framerExtra]
    simp only [framerTick]
    simp only [ticksLeft]
    simp [framerExtra, extraPhase] at e ⊢
    split
    · next heq => split at heq <;> simp at heq
    · next heq =>
      split at heq <;> simp at heq <;> obtain ⟨rfl, rfl⟩ := heq
      · simp [framerLeft]; omega
      · simp [framerLeft]; omega
    all_goals next heq => split at heq <;> simp at heq
  | clean =>
    have e : callerLeft (framerClean c s) c = callerLeft s c := by cases c <;> simp [callerLeft, framerClean]
    simp [framerTick, framerClean, ticksLeft, framerLeft] at e ⊢
    omega
  | release =>
    have e : callerLeft (framerRelease c s) c = callerLeft s c := by cases c <;> simp [callerLeft, framerRelease]
    simp [framerTick, framerRelease, ticksLeft, framerLeft] at e ⊢
    omega

theorem framerLeft_assert_le (s : State) : framerLeft s .assert ≤ framerSteps s.cfg := by
  have := extraCount_le s.extra
  simp only [framerLeft, framerSteps, tailSteps]
  omega

/-- A framer call just made needs at most `framerSteps` steps besides those of its caller. -/
theorem callFramer_ticksLeft (c : Caller) (i : BitVec 6) (a : Word32) (x : Byte) (s : State) :
    ticksLeft (callFramer c i a x s) ≤ framerSteps s.cfg + callerLeft s c := by
  have h := framerLeft_assert_le (callFramer c i a x s)
  have e : callerLeft (callFramer c i a x s) c = callerLeft s c := by cases c <;> simp [callerLeft]
  simp only [ticksLeft, callFramer_st, callFramer_cfg, e] at h ⊢
  omega

@[simp] theorem ticksLeft_takeFault (e : FaultFlag) (s : State) : ticksLeft (takeFault e s) = 0 := by simp [ticksLeft]
@[simp] theorem ticksLeft_finish (ok : Bool) (s : State) : ticksLeft (s.finish ok) = 0 := by simp [ticksLeft]

theorem enterOpcond_ticksLeft (s : State) : ticksLeft (enterOpcond s) < stepsFromIfCondJudge s.cfg := by
  have h := callFramer_ticksLeft .n6OpcondHc s.cfg.idxSendOpCond s.cfg.hcsArg 0 (s.setCnt s.cfg.opcondRetry)
  have k := callFramer_ticksLeft .n7OpcondLegacy s.cfg.idxSendOpCond 0 0 (s.setCnt s.cfg.opcondRetry)
  simp only [callerLeft, State.setCnt_cfg, State.setCnt_cnt] at h k
  unfold enterOpcond enterOpcondHc enterOpcondLegacy stepsFromIfCondJudge
  split
  · simp only [State.setCnt_cfg]; omega
  · simp only [State.setCnt_cfg]; omega

/-- A failed attempt that makes another one has fewer steps left, where an attempt takes at most `m` steps and the loop
needs `m` for each attempt left. -/
theorem failedAttempt_ticksLeft (e : FaultFlag) {again : State → State} {m r : Nat} (s : State) (hm : 0 < m)
    (h : ∀ t, t.cfg = s.cfg → ticksLeft (again t) < m + attemptsLeft t.cnt * m + r) :
    ticksLeft (failedAttempt e again s) < attemptsLeft s.cnt * m + r := by
  unfold failedAttempt
  split
  · have := Nat.mul_pos (attemptsLeft_pos s.cnt) hm
    simp only [ticksLeft_takeFault]
    omega
  · next hc =>
    have h1 := h (s.setCnt (s.cnt - 1)) (by simp)
    simp only [State.setCnt_cnt] at h1
    rw [attemptsLeft_pred hc, Nat.add_mul]
    omega

theorem judge_ticksLeft (c : Caller) (s : State) : ticksLeft (judge c s) < 1 + callerLeft s c := by
  cases c <;> simp only [judge, callerLeft]
  case host => simp
  case n4Idle =>
    unfold judgeGoIdle
    split
    · have := callFramer_ticksLeft .n5IfCond s.cfg.idxSendIfCond s.cfg.ifCondPattern s.cfg.respExtra s
      simp only [enterIfCond, stepsFromIdleJudge, callerLeft] at this ⊢
      omega
    · simp
  case n5IfCond =>
    have h (e : Bool) := enterOpcond_ticksLeft (recordEcho e s)
    simp only [recordEcho_cfg] at h
    unfold judgeIfCond judgeEcho judgeLegacy
    split
    · have := h (echoMatches s.cfg (heldAt s.xbuf 2) (heldAt s.xbuf 3)); omega
    · split
      · simp
      · have := h false; omega
  case n6OpcondHc =>
    unfold judgeOpcondHc
    split
    · have := callFramer_ticksLeft .n6Ocr s.cfg.idxReadOcr 0 s.cfg.respExtra (s.setTimeoutCount s.cnt)
      simp [enterReadOcr, stepsFromOpcondJudge, callerLeft] at this ⊢
      omega
    · have := failedAttempt_ticksLeft .opcondTimeout (again := enterOpcondHc) (m := framerSteps s.cfg + 1)
        (r := framerSteps s.cfg + stepsFromSpeed s.cfg + 2) s (by omega) (fun t ht => by
          have := callFramer_ticksLeft .n6OpcondHc t.cfg.idxSendOpCond t.cfg.hcsArg 0 t
          simp only [callerLeft, stepsFromOpcondJudge, ht] at this
          simp only [enterOpcondHc, ht]
          omega)
      unfold stepsFromOpcondJudge
      omega
  case n6Ocr =>
    unfold judgeReadOcr
    split
    · simp
    · split
      · simp
      · simp [ticksLeft]
  case n7OpcondLegacy =>
    unfold judgeOpcondLegacy
    split
    · simp [ticksLeft, stepsFromOpcondJudge]
      omega
    · have := failedAttempt_ticksLeft .opcondTimeout (again := enterOpcondLegacy) (m := framerSteps s.cfg + 1)
        (r := framerSteps s.cfg + stepsFromSpeed s.cfg + 2) s (by omega) (fun t ht => by
          have := callFramer_ticksLeft .n7OpcondLegacy t.cfg.idxSendOpCond 0 0 t
          simp only [callerLeft, stepsFromOpcondJudge, ht] at this
          simp only [enterOpcondLegacy, ht]
          omega)
      unfold stepsFromOpcondJudge
      omega
  case n9CsdCmd =>
    unfold judgeSendCsd
    split
    · simp [ticksLeft, stepsFromCsdJudge]
      omega
    · have := failedAttempt_ticksLeft .csdTimeout (again := fun t => t.goto .n9Release) (m := framerSteps s.cfg + 3)
        (r := stepsFromToken s.cfg s.cfg.csdTokenRetry) s (by omega) (fun t ht => by
          simp only [ticksLeft, State.goto_st, State.goto_cfg, State.goto_cnt, ht, stepsFromCsdJudge]
          omega)
      unfold stepsFromCsdJudge
      omega
  case n11CrcOnOff =>
    have := callFramer_ticksLeft .n11SetBlocklen s.cfg.idxSetBlocklen s.cfg.blocklenArg 0 s
    simp only [enterSetBlocklen, callerLeft] at this ⊢
    omega
  case n11SetBlocklen => simp [ticksLeft]
  case wCmd =>
    unfold judgeWriteCmd
    split
    · simp [ticksLeft]
    · simp

/-- Every step of a running operation brings it nearer to its return (R160, R122, R212). -/
theorem tick_ticksLeft (s : State) (hb : s.busy = true) : ticksLeft (tick s) < ticksLeft s := by
  have hi := (State.busy_iff s).mp hb
  unfold tick
  split
  case h_1 h => exact absurd h hi
  case h_2 c p h => exact framerTick_ticksLeft c p s h
  case h_3 c h =>
    have := judge_ticksLeft c s
    have hs : ticksLeft s = 1 + callerLeft s c := by simp [ticksLeft, h]
    omega
  case h_8 h => unfold checkPresent; split <;> simp [ticksLeft, h]
  case h_9 h => unfold checkWriteProt; split <;> simp [ticksLeft, h]
  case h_10 h => unfold primePhase; split <;> simp [ticksLeft, h]; omega
  case h_11 i h => unfold primePhase; split <;> simp [ticksLeft, h] <;> omega
  case h_12 h =>
    have := callFramer_ticksLeft .n4Idle s.assertBus.cfg.idxGoIdleState 0 0 s.assertBus
    simp only [enterGoIdle, ticksLeft, h, stepsFromAssert, callerLeft, State.assertBus_cfg] at this ⊢
    omega
  case h_15 h =>
    have := callFramer_ticksLeft .n9CsdCmd (s.assertBus.setCnt s.cfg.csdCmdRetry).cfg.idxSendCsd 0 extraMinusOne
      (s.assertBus.setCnt s.cfg.csdCmdRetry)
    simp only [enterSendCsd, ticksLeft, h, callerLeft, State.setCnt_cfg, State.setCnt_cnt, State.assertBus_cfg,
      stepsFromSpeed] at this ⊢
    omega
  case h_17 h =>
    have := callFramer_ticksLeft .n9CsdCmd s.assertBus.cfg.idxSendCsd 0 extraMinusOne s.assertBus
    simp only [enterSendCsd, ticksLeft, h, callerLeft, State.assertBus_cfg, State.assertBus_cnt] at this ⊢
    omega
  case h_18 h => simp [pollCsdToken, ticksLeft, h, stepsFromToken]
  case h_19 h =>
    have hs : ticksLeft s = stepsFromTokenJudge s.cfg s.cnt := by simp [ticksLeft, h]
    rw [hs]
    unfold judgeCsdToken
    split
    · have := attemptsLeft_pos s.cnt
      unfold csdPhase
      split
      · simp only [ticksLeft, State.goto_st, State.goto_cfg, State.setCsd_cfg, State.setTimeoutCount_eq,
          State.withStatus_cfg, stepsFromTokenJudge]
        omega
      · simp only [ticksLeft, State.goto_st, State.goto_cfg, State.setCsd_cfg, State.setTimeoutCount_eq,
          State.withStatus_cfg, stepsFromTokenJudge]
        omega
    · have := failedAttempt_ticksLeft .csdTokenMissing (again := fun t => t.goto .n9CsdToken) (m := 2)
        (r := s.cfg.csdLen + stepsFromDecode s.cfg + 3) s (by omega) (fun t ht => by
          simp only [ticksLeft, State.goto_st, State.goto_cfg, State.goto_cnt, ht, stepsFromToken, stepsFromTokenJudge]
          omega)
      simp only [stepsFromTokenJudge] at this ⊢
      omega
  case h_20 i h => unfold readCsdByte csdPhase; split <;> simp [ticksLeft, h] <;> omega
  case h_23 h =>
    have := callFramer_ticksLeft .n11CrcOnOff s.cfg.idxCrcOnOff 0 0
      ((s.setDev (s.dev.withCapacity (decodeCapacity s.csd))).setCsd [])
    simp only [decodeRecord, storeCapacity, enterCrcOnOff, ticksLeft, h, callerLeft, State.setCsd_cfg, State.setDev_cfg,
      stepsFromDecode] at this ⊢
    omega
  case h_24 h => simp [markReady, ticksLeft, h]
  case h_25 h => unfold sendToken dataPhase; split <;> simp [ticksLeft, h, stepsFromWriteJudge] <;> omega
  case h_26 i h => unfold sendPayload dataPhase; split <;> simp [ticksLeft, h] <;> omega
  case h_27 i h =>
    unfold sendCheck
    split
    · next hi => subst hi; simp [ticksLeft, h]
    · next hi =>
      have : i.val = 1 := by omega
      simp [ticksLeft, h]; omega
  case h_28 h => simp [readDataResponse, ticksLeft, h]
  case h_29 h => unfold judgeDataResponse; split <;> simp [ticksLeft, h]
  case h_30 h => simp [pollBusy, ticksLeft, h]
  case h_31 h =>
    have hs : ticksLeft s = attemptsLeft s.cnt * 2 + 2 := by simp [ticksLeft, h]
    rw [hs]
    unfold judgeBusy
    split
    · have := attemptsLeft_pos s.cnt
      simp [ticksLeft]
      omega
    · exact failedAttempt_ticksLeft .writeTimeout (again := fun t => t.goto .wBusy) (m := 2) (r := 2) s
        (by omega) (fun t ht => by simp [ticksLeft]; omega)
  case h_32 h => simp [sendCleanup, ticksLeft, h]
  case h_33 h => simp [releaseWrite, ticksLeft, h]
  case h_14 h => simp [ticksLeft, h, stepsFromSpeed]
  case h_13 h => simp [ticksLeft, h, stepsFromSpeed]
  all_goals next h => simp [ticksLeft, h]

end Sys2Proof.Machine
end

