-- ==== Sys2Proof/Laws/Run.lean ====
section
/-! SUPPORT. The run of an operation: it returns, one step may be peeled off, and a framer call runs as
`TransmitCommand` of R110. -/

namespace Sys2Proof.Machine

theorem runFor_sameHost (k : Nat) (s : State) : SameHost s (runFor k s) := by
  induction k generalizing s with
  | zero => exact .refl s
  | succ k ih =>
    unfold runFor
    split
    · exact (tick_sameHost s).trans (ih _)
    · exact .refl s

theorem runFor_of_not_busy {s : State} (k : Nat) (h : s.busy = false) : runFor k s = s := by
  cases k <;> simp [runFor, h]

theorem ticksLeft_of_not_busy {s : State} (h : s.busy = false) : ticksLeft s = 0 := by
  have := (State.busy_eq_false_iff s).mp h
  simp [ticksLeft, this]

/-- Enough steps bring any operation to its return. -/
theorem runFor_returns (k : Nat) (s : State) (h : ticksLeft s ≤ k) : (runFor k s).busy = false := by
  induction k generalizing s with
  | zero =>
    cases hb : s.busy with
    | false => simp [runFor, hb]
    | true => have := tick_ticksLeft s hb; omega
  | succ k ih =>
    cases hb : s.busy with
    | false => simp [runFor, hb]
    | true =>
      have := tick_ticksLeft s hb
      simp only [runFor, hb, if_true]
      exact ih _ (by omega)

/-- Any two runs of enough steps agree. -/
theorem runFor_agree (j k : Nat) (s : State) (hj : ticksLeft s ≤ j) (hk : ticksLeft s ≤ k) :
    runFor j s = runFor k s := by
  induction j generalizing k s with
  | zero =>
    cases hb : s.busy with
    | false => simp [runFor_of_not_busy, hb]
    | true => have := tick_ticksLeft s hb; omega
  | succ j ih =>
    cases hb : s.busy with
    | false => simp [runFor_of_not_busy, hb]
    | true =>
      have ht := tick_ticksLeft s hb
      obtain ⟨m, rfl⟩ : ∃ m, k = m + 1 := ⟨k - 1, by omega⟩
      simp only [runFor, hb, if_true]
      exact ih m (tick s) (by omega) (by omega)

theorem runToReturn_of_not_busy {s : State} (h : s.busy = false) : runToReturn s = s := runFor_of_not_busy _ h

theorem runToReturn_takeFault (e : FaultFlag) (s : State) : runToReturn (takeFault e s) = takeFault e s :=
  runToReturn_of_not_busy (by simp [State.busy])

theorem runToReturn_finish (ok : Bool) (s : State) : runToReturn (s.finish ok) = s.finish ok :=
  runToReturn_of_not_busy (by simp [State.busy])

/-- One step may be peeled off a run. -/
theorem runToReturn_tick (s : State) : runToReturn (tick s) = runToReturn s := by
  cases hb : s.busy with
  | false => simp [tick, (State.busy_eq_false_iff s).mp hb]
  | true =>
    have ht := tick_ticksLeft s hb
    obtain ⟨m, hm⟩ : ∃ m, ticksLeft s = m + 1 := ⟨ticksLeft s - 1, by omega⟩
    unfold runToReturn
    rw [hm]
    simp only [runFor, hb, if_true]
    exact runFor_agree _ _ (tick s) (Nat.le_refl _) (by omega)

theorem runToReturn_busy (s : State) : (runToReturn s).busy = false := runFor_returns _ s (Nat.le_refl _)

theorem runToReturn_sameHost (s : State) : SameHost s (runToReturn s) := runFor_sameHost _ s

/-- With no input of the host to come, an operation runs to its return. -/
theorem runOn_undisturbed {s : State} (h : s.inputs = []) : runOn s = runToReturn s := by
  have k := (runToReturn_sameHost s).inputs
  rw [h] at k
  have e : runFor (runLength s) s = runToReturn s := by rw [runLength, h]; rfl
  unfold runOn
  simp only [e, k, landNext]
  rw [← k]

end Sys2Proof.Machine
end

