-- ==== Sys2Proof/Laws/Framer.lean ====
section
/-! SUPPORT. A framer call runs as `TransmitCommand` of R110. -/

namespace Sys2Proof.Machine

@[simp] theorem State.goto_goto (s : State) (p q : Phase) : (s.goto p).goto q = s.goto q := rfl
@[simp] theorem State.goto_xfer (s : State) (p : Phase) (x : Byte) : (s.goto p).xfer x = (s.xfer x).goto p := rfl
@[simp] theorem State.goto_inByte (s : State) (p : Phase) : (s.goto p).inByte = s.inByte := rfl
@[simp] theorem State.goto_setN (s : State) (p : Phase) (c : Count) : (s.goto p).setN c = (s.setN c).goto p := rfl
@[simp] theorem State.goto_setToken (s : State) (p : Phase) (x : Byte) (a : Bool) :
    (s.goto p).setToken x a = (s.setToken x a).goto p := rfl
@[simp] theorem State.goto_setXbuf (s : State) (p : Phase) (l : List Byte) :
    (s.goto p).setXbuf l = (s.setXbuf l).goto p := rfl
@[simp] theorem State.goto_setF (s : State) (p : Phase) (f : Vector Byte 6) :
    (s.goto p).setF f = (s.setF f).goto p := rfl
@[simp] theorem State.goto_assertBus (s : State) (p : Phase) : (s.goto p).assertBus = s.assertBus.goto p := rfl
@[simp] theorem State.goto_releaseBus (s : State) (p : Phase) : (s.goto p).releaseBus = s.releaseBus.goto p := rfl

@[simp] theorem State.goto_pollByte (s : State) (p : Phase) : (s.goto p).pollByte = s.pollByte.goto p := rfl
@[simp] theorem State.goto_setCnt (s : State) (p : Phase) (c : Count) : (s.goto p).setCnt c = (s.setCnt c).goto p := rfl
@[simp] theorem State.goto_setCsd (s : State) (p : Phase) (l : List Byte) :
    (s.goto p).setCsd l = (s.setCsd l).goto p := rfl
@[simp] theorem State.goto_setDev (s : State) (p : Phase) (d : DeviceHandle) :
    (s.goto p).setDev d = (s.setDev d).goto p := rfl
@[simp] theorem State.goto_setRate (s : State) (p : Phase) (r : Rate) : (s.goto p).setRate r = (s.setRate r).goto p := rfl
@[simp] theorem State.goto_finish (s : State) (p : Phase) (ok : Bool) : (s.goto p).finish ok = s.finish ok := rfl
@[simp] theorem takeFault_goto (e : FaultFlag) (s : State) (p : Phase) : takeFault e (s.goto p) = takeFault e s := rfl
@[simp] theorem callFramer_goto (c : Caller) (i : BitVec 6) (a : Word32) (x : Byte) (s : State) (p : Phase) :
    callFramer c i a x (s.goto p) = callFramer c i a x s := rfl

/-- The run from a phase begins with that phase's step. -/
theorem runToReturn_goto (s : State) (p : Phase) : runToReturn (s.goto p) = runToReturn (tick (s.goto p)) :=
  (runToReturn_tick _).symm

/-- The run from a phase whose step is known. -/
theorem run_tick (s : State) (p : Phase) (t : State) (h : tick (s.goto p) = t) :
    runToReturn (s.goto p) = runToReturn t := by
  rw [runToReturn_goto, h]

/-- A judgement does not read the phase. -/
theorem judge_goto (c : Caller) (s : State) (p : Phase) : judge c (s.goto p) = judge c s := by cases c <;> rfl

/-- The run from a judgement begins with the judgement. -/
theorem run_judge (c : Caller) (s : State) : runToReturn (s.goto (.judge c)) = runToReturn (judge c s) := by
  rw [runToReturn_goto, ← judge_goto c s (.judge c)]
  rfl

theorem run_release (c : Caller) (s : State) :
    runToReturn (s.goto (.framer c .release)) = runToReturn (s.releaseBus.goto (.judge c)) := by
  rw [runToReturn_goto]; simp [tick, framerTick, framerRelease]

theorem run_clean (c : Caller) (s : State) :
    runToReturn (s.goto (.framer c .clean)) = runToReturn ((s.xfer s.cfg.filler).releaseBus.goto (.judge c)) := by
  rw [runToReturn_goto]; simp [tick, framerTick, framerClean, run_release]

/-- The phase of extra byte `i`, with `k` bytes still to read. -/
theorem run_extra (c : Caller) (k i : Nat) (s : State) (h : extraCount s.extra = i + k) :
    runToReturn (s.goto (extraPhase c s.extra i)) =
      runToReturn (((readExtras k s).xfer (readExtras k s).cfg.filler).releaseBus.goto (.judge c)) := by
  induction k generalizing i s with
  | zero => simp [extraPhase, h, run_clean, readExtras]
  | succ k ih =>
    have hi : i < extraCount s.extra := by omega
    rw [runToReturn_goto]
    simp only [extraPhase, if_pos hi, tick, State.goto_st, framerTick, framerExtra]
    have := ih (i + 1) ((s.xfer s.cfg.filler).setXbuf (s.xbuf ++ [s.inByte])) (by simp; omega)
    simp [readExtras] at this ⊢
    exact this

theorem extraNegative_count {x : Byte} (h : extraNegative x) : extraCount x = 0 := by
  unfold extraNegative at h
  unfold extraCount
  omega

@[simp] theorem readExtras_extra (k : Nat) (s : State) : (readExtras k s).extra = s.extra := by
  induction k generalizing s with
  | zero => rfl
  | succ k ih => simp [readExtras, ih]

theorem run_framerTail (c : Caller) (s : State) :
    runToReturn (framerTail c s) = runToReturn ((closeFrame s).goto (.judge c)) := by
  unfold framerTail closeFrame
  split
  · rfl
  · exact run_clean c s

theorem run_afterPoll (c : Caller) (s : State) :
    runToReturn (afterPoll c s) = runToReturn ((closeFrame (takeExtras s)).goto (.judge c)) := by
  unfold afterPoll takeExtras
  by_cases ha : s.answered
  · by_cases hx : 0 < extraCount s.extra
    · have hn : ¬ extraNegative s.extra := fun h => by rw [extraNegative_count h] at hx; omega
      have := run_extra c (extraCount s.extra) 0 s (by omega)
      rw [extraPhase, if_pos hx] at this
      simp [ha, hx, closeFrame, hn, this]
    · have h0 : extraCount s.extra = 0 := by omega
      simp [ha, h0, readExtras, run_framerTail]
  · simp [ha, run_framerTail]

@[simp] theorem afterPoll_goto (c : Caller) (s : State) (p : Phase) : afterPoll c (s.goto p) = afterPoll c s := by
  simp [afterPoll, framerTail]

/-- The poll, with `k` polls still allowed. -/
theorem run_poll (c : Caller) (k : Nat) (s : State) (h : (s.cfg.cmdRetry - s.n).toNat = k) :
    runToReturn (s.goto (.framer c .poll)) =
      runToReturn ((closeFrame (takeExtras (pollToken k s))).goto (.judge c)) := by
  rw [runToReturn_goto]
  simp only [tick, State.goto_st, framerTick, framerPoll, State.goto_n, State.goto_cfg, State.goto_inByte,
    State.goto_xfer, State.goto_setN, State.goto_setToken, afterPoll_goto]
  induction k generalizing s with
  | zero =>
    have hn : s.n = s.cfg.cmdRetry := by
      apply BitVec.eq_of_toNat_eq
      have := s.n.isLt
      have := s.cfg.cmdRetry.isLt
      rw [BitVec.toNat_sub] at h
      omega
    rw [if_pos hn]
    exact run_afterPoll c s
  | succ k ih =>
    have hn : s.n ≠ s.cfg.cmdRetry := fun e => by simp [e] at h
    have hp := pollLeft_pred hn
    rw [if_neg hn]
    unfold pollToken
    split
    · have := ih ((s.xfer s.cfg.filler).setN (s.n + 1)) (by simp only [State.setN_cfg, State.setN_n, State.xfer_cfg]; omega)
      rw [← this, runToReturn_goto]
      simp only [tick, State.goto_st, framerTick, framerPoll, State.goto_n, State.goto_cfg, State.goto_inByte,
        State.goto_xfer, State.goto_setN, State.goto_setToken, afterPoll_goto]
    · exact run_afterPoll c _

theorem run_beginPoll (c : Caller) (s : State) :
    runToReturn (beginPoll c s) = runToReturn ((closeFrame (takeExtras (pollToken s.cfg.cmdRetry.toNat
      (((s.setToken s.cfg.filler false).setN 0).setXbuf [])))).goto (.judge c)) := by
  unfold beginPoll
  exact run_poll c _ _ (by simp)

/-- The frame bytes from byte `i` on. -/
theorem run_frame (c : Caller) (s : State) :
    runToReturn (s.goto (.framer c (.frame 0))) = runToReturn (beginPoll c (sendAll s.f.toList s)) := by
  have step (i : Fin 6) (t : State) : runToReturn (t.goto (.framer c (.frame i))) =
      runToReturn (if i = 5 then beginPoll c (t.xfer t.f[5]) else (t.xfer t.f[i]).goto (.framer c (.frame (i + 1)))) := by
    rw [runToReturn_goto]
    simp only [tick, State.goto_st, framerTick, framerFrame, State.goto_xfer, State.goto_goto, State.goto_f]
    split <;> simp [beginPoll]
  have hl : s.f.toList = [s.f[0], s.f[1], s.f[2], s.f[3], s.f[4], s.f[5]] := by
    obtain ⟨⟨l⟩, h⟩ := s.f
    match l, h with
    | [a, b, c, d, e, f], _ => rfl
  rw [hl]
  simp only [sendAll]
  rw [step, if_neg (by decide), step, if_neg (by decide), step, if_neg (by decide), step, if_neg (by decide), step,
    if_neg (by decide), step]
  simp

/-- A framer call runs as `TransmitCommand` (R110) and then goes on at its caller. -/
theorem run_callFramer (c : Caller) (idx : BitVec 6) (arg : Word32) (extra : Byte) (s : State) :
    runToReturn (callFramer c idx arg extra s) = runToReturn ((transmit idx arg extra s).goto (.judge c)) := by
  rw [← runToReturn_tick]
  have e : tick (callFramer c idx arg extra s) = (openFrame idx arg extra s).goto (.framer c (.frame 0)) := rfl
  rw [e, run_frame, run_beginPoll]
  have hc (l : List Byte) (t : State) : (sendAll l t).cfg = t.cfg := by
    induction l generalizing t with
    | nil => rfl
    | cons x l ih => simp [sendAll, ih]
  rw [hc]
  rfl

theorem attemptsLeft_one {c : Count} (h : c - 1 = 0) : attemptsLeft c = 1 := by
  have : c = 1 := by
    have := congrArg (· + 1#16) h
    simpa using this
  subst this; decide

/-- A bounded loop of the sequencer runs as the loop of R120. `p` is the phase step that begins an attempt, whose
judgement either goes on or counts a failed attempt. -/
theorem run_attempts (e : FaultFlag) (attempt : State → State) (good : State → Bool) (onGood again : State → State)
    (p again' : State → State)
    (hagain : ∀ t, runToReturn (again' t) = runToReturn (p (again t)))
    (hcnt : ∀ t, (attempt t).cnt = t.cnt) (hcnt2 : ∀ t, (again t).cnt = t.cnt)
    (hp : ∀ t, runToReturn (p t) = if good (attempt t) then onGood (attempt t)
        else runToReturn (failedAttempt e again' (attempt t)))
    (s : State) :
    runToReturn (p s) = attempts e attempt good onGood again (attemptsLeft s.cnt) s := by
  generalize hk : attemptsLeft s.cnt = k
  induction k generalizing s with
  | zero => have := attemptsLeft_pos s.cnt; omega
  | succ k ih =>
    rw [hp]
    unfold attempts
    split
    · rfl
    · unfold failedAttempt
      rw [hcnt]
      by_cases hc : s.cnt - 1 = 0
      · have := attemptsLeft_one hc
        have : k = 0 := by omega
        rw [if_pos hc, if_pos this, runToReturn_takeFault]
      · have := attemptsLeft_pred hc
        have hk0 : k ≠ 0 := by have := attemptsLeft_pos (s.cnt - 1); omega
        rw [if_neg hc, if_neg hk0, hagain]
        exact ih _ (by rw [hcnt2, State.setCnt_cnt]; omega)

end Sys2Proof.Machine
end

