-- ==== Sys2Proof/Laws/Transmit.lean ====
section
/-! SUPPORT. The effect of the loops of R110 in closed form: what is sent, what is received, what is left. -/

namespace Sys2Proof.Machine

/-- The answers after `n` more have been given. -/
def Answers.skip {α : Type} (a : Answers α) (n : Nat) : Answers α := { a with script := a.script.drop n }

@[simp] theorem Answers.skip_zero {α : Type} (a : Answers α) : a.skip 0 = a := rfl

theorem Answers.peek_eq {α : Type} (a : Answers α) : a.peek = a.nth 0 := by
  cases h : a.script <;> simp [Answers.peek, Answers.nth, h]

theorem Answers.pop_eq {α : Type} (a : Answers α) : a.pop = a.skip 1 := by
  simp [Answers.pop, Answers.skip]

@[simp] theorem Answers.nth_skip {α : Type} (a : Answers α) (n k : Nat) : (a.skip n).nth k = a.nth (n + k) := by
  simp [Answers.nth, Answers.skip]

@[simp] theorem Answers.skip_skip {α : Type} (a : Answers α) (m n : Nat) : (a.skip m).skip n = a.skip (m + n) := by
  simp [Answers.skip]

theorem exchange_skip (a : Answers Byte) (d : Bool) (n k : Nat) (l : List Byte) :
    exchange (a.skip n) d k l = exchange a d (n + k) l := by
  induction l generalizing k with
  | nil => rfl
  | cons x l ih => simp [exchange, ih, Nat.add_assoc]

theorem exchange_append (a : Answers Byte) (d : Bool) (k : Nat) (l m : List Byte) :
    exchange a d k (l ++ m) = exchange a d k l ++ exchange a d (k + l.length) m := by
  induction l generalizing k with
  | nil => rfl
  | cons x l ih => simp [exchange, ih, Nat.add_assoc, Nat.add_comm]

@[simp] theorem exchange_length (a : Answers Byte) (d : Bool) (k : Nat) (l : List Byte) :
    (exchange a d k l).length = l.length := by
  induction l generalizing k with
  | nil => rfl
  | cons x l ih => simp [exchange, ih]

theorem received_skip (a : Answers Byte) (n k m : Nat) : received (a.skip n) k m = received a (n + k) m := by
  induction m generalizing k with
  | zero => rfl
  | succ m ih => simp [received, ih, Nat.add_assoc]

@[simp] theorem received_length (a : Answers Byte) (k m : Nat) : (received a k m).length = m := by
  induction m generalizing k with
  | zero => rfl
  | succ m ih => simp [received, ih]

/-- The bytes of `l` have been sent and as many answers received. -/
def State.afterSending (s : State) (l : List Byte) : State :=
  { s with
    trace := (exchange s.env.xfer s.dbg 0 l).reverse ++ s.trace
    env := { s.env with xfer := s.env.xfer.skip l.length } }

theorem State.xfer_afterSending (s : State) (x : Byte) (l : List Byte) :
    (s.xfer x).afterSending l = s.afterSending (x :: l) := by
  simp [State.afterSending, State.xfer, State.emit, exchange, exchange_skip, Answers.pop_eq, State.inByte,
    Answers.peek_eq, Nat.add_comm]

@[simp] theorem State.afterSending_nil (s : State) : s.afterSending [] = s := rfl

theorem sendAll_eq (l : List Byte) (s : State) : sendAll l s = s.afterSending l := by
  induction l generalizing s with
  | nil => rfl
  | cons x l ih => rw [sendAll, ih, State.xfer_afterSending]

theorem State.afterSending_append (s : State) (l m : List Byte) :
    (s.afterSending l).afterSending m = s.afterSending (l ++ m) := by
  simp [State.afterSending, exchange_skip, exchange_append]

theorem State.xfer_eq (s : State) (x : Byte) : s.xfer x = s.afterSending [x] := by
  rw [← State.xfer_afterSending]; rfl

theorem readExtras_eq (k : Nat) (s : State) :
    readExtras k s =
      (s.afterSending (List.replicate k s.cfg.filler)).setXbuf (s.xbuf ++ received s.env.xfer 0 k) := by
  induction k generalizing s with
  | zero => simp [readExtras, received, State.setXbuf]
  | succ k ih =>
    rw [readExtras, ih]
    simp [State.afterSending, State.setXbuf, State.xfer, State.emit, exchange, exchange_skip, received, received_skip,
      Answers.pop_eq, State.inByte, Answers.peek_eq, Nat.add_comm, List.replicate]

/-- A device that answers `FILLER` to every poll. -/
theorem pollToken_silent (k : Nat) (s : State) (h : ∀ j, j < k → s.env.xfer.nth j = s.cfg.filler) :
    pollToken k s = (s.afterSending (List.replicate k s.cfg.filler)).setN (s.n + BitVec.ofNat 16 k) := by
  induction k generalizing s with
  | zero => simp [pollToken, State.setN]
  | succ k ih =>
    have h0 : s.inByte = s.cfg.filler := by rw [State.inByte, Answers.peek_eq]; exact h 0 (by omega)
    rw [pollToken, if_pos h0, ih]
    · simp only [State.xfer_eq]
      rw [show List.replicate (k + 1) s.cfg.filler = [s.cfg.filler] ++ List.replicate k s.cfg.filler from rfl]
      rw [← State.afterSending_append]
      have : s.n + 1#16 + BitVec.ofNat 16 k = s.n + BitVec.ofNat 16 (k + 1) := by
        apply BitVec.eq_of_toNat_eq; simp [BitVec.toNat_add]; omega
      simp [State.afterSending, State.setN, this]
    · intro j hj
      have := h (j + 1) (by omega)
      simp [State.xfer, State.emit, Answers.pop_eq, State.setN, Nat.add_comm] at this ⊢
      exact this

/-- A device whose answer `j` is the first that is not `FILLER`. -/
theorem pollToken_answered (k j : Nat) (s : State) (hj : j < k) (h : ∀ i, i < j → s.env.xfer.nth i = s.cfg.filler)
    (hne : s.env.xfer.nth j ≠ s.cfg.filler) :
    pollToken k s = ((s.afterSending (List.replicate (j + 1) s.cfg.filler)).setN
      (s.n + BitVec.ofNat 16 (j + 1))).setToken (s.env.xfer.nth j) true := by
  induction k generalizing s j with
  | zero => omega
  | succ k ih =>
    rw [pollToken]
    cases j with
    | zero =>
      have h0 : ¬ s.inByte = s.cfg.filler := by rw [State.inByte, Answers.peek_eq]; exact hne
      rw [if_neg h0, State.xfer_eq, State.inByte, Answers.peek_eq]
      rfl
    | succ j =>
      have h0 : s.inByte = s.cfg.filler := by rw [State.inByte, Answers.peek_eq]; exact h 0 (by omega)
      rw [if_pos h0, ih j]
      · simp only [State.xfer_eq]
        rw [show List.replicate (j + 1 + 1) s.cfg.filler = [s.cfg.filler] ++ List.replicate (j + 1) s.cfg.filler from rfl]
        rw [← State.afterSending_append]
        have e : s.n + 1#16 + BitVec.ofNat 16 (j + 1) = s.n + BitVec.ofNat 16 (j + 1 + 1) := by
          apply BitVec.eq_of_toNat_eq; simp [BitVec.toNat_add]; omega
        simp [State.afterSending, State.setN, e, Nat.add_comm 1 j]
      · omega
      · intro i hi
        have := h (i + 1) (by omega)
        simp [State.xfer, State.emit, Answers.pop_eq, State.setN, Nat.add_comm] at this ⊢
        exact this
      · simp [State.xfer, State.emit, Answers.pop_eq, State.setN, Nat.add_comm] at hne ⊢
        exact hne

@[simp] theorem State.setXbuf_afterSending (s : State) (l m : List Byte) :
    (s.setXbuf l).afterSending m = (s.afterSending m).setXbuf l := rfl
@[simp] theorem State.setN_afterSending (s : State) (c : Count) (m : List Byte) :
    (s.setN c).afterSending m = (s.afterSending m).setN c := rfl
@[simp] theorem State.setToken_afterSending (s : State) (x : Byte) (a : Bool) (m : List Byte) :
    (s.setToken x a).afterSending m = (s.afterSending m).setToken x a := rfl
@[simp] theorem State.afterSending_xfer_env (s : State) (l : List Byte) :
    (s.afterSending l).env.xfer = s.env.xfer.skip l.length := rfl
@[simp] theorem State.afterSending_cfg (s : State) (l : List Byte) : (s.afterSending l).cfg = s.cfg := rfl
@[simp] theorem State.afterSending_extra (s : State) (l : List Byte) : (s.afterSending l).extra = s.extra := rfl
@[simp] theorem State.afterSending_answered (s : State) (l : List Byte) : (s.afterSending l).answered = s.answered := rfl
@[simp] theorem State.afterSending_xbuf (s : State) (l : List Byte) : (s.afterSending l).xbuf = s.xbuf := rfl
@[simp] theorem openFrame_env (idx : BitVec 6) (arg : Word32) (extra : Byte) (s : State) :
    (openFrame idx arg extra s).env = s.env := rfl
@[simp] theorem openFrame_cfg (idx : BitVec 6) (arg : Word32) (extra : Byte) (s : State) :
    (openFrame idx arg extra s).cfg = s.cfg := rfl
@[simp] theorem openFrame_extra (idx : BitVec 6) (arg : Word32) (extra : Byte) (s : State) :
    (openFrame idx arg extra s).extra = extra := rfl
@[simp] theorem buildFrame_length (c : Config) (idx : BitVec 6) (arg : Word32) :
    (buildFrame c idx arg).toList.length = 6 := rfl

/-- The state in which a framer call begins to poll. -/
theorem sendFrame_eq (idx : BitVec 6) (arg : Word32) (extra : Byte) (s : State) :
    sendFrame (openFrame idx arg extra s) =
      ((((openFrame idx arg extra s).afterSending (buildFrame s.cfg idx arg).toList).setToken s.cfg.filler false).setN
        0).setXbuf [] := by
  rw [sendFrame, sendAll_eq]
  rfl

/-- R114: a framer call that gets no response. -/
theorem transmit_silent (idx : BitVec 6) (arg : Word32) (extra : Byte) (s : State)
    (h : ∀ j, j < s.cfg.cmdRetry.toNat → s.env.xfer.nth (6 + j) = s.cfg.filler) :
    transmit idx arg extra s =
      closeFrame (((((openFrame idx arg extra s).afterSending ((buildFrame s.cfg idx arg).toList ++
        List.replicate s.cfg.cmdRetry.toNat s.cfg.filler)).setToken s.cfg.filler false).setN s.cfg.cmdRetry).setXbuf
        []) := by
  unfold transmit
  rw [sendFrame_eq, pollToken_silent _ _ (by simpa using h), ← State.afterSending_append]
  simp only [State.setXbuf_afterSending, State.setN_afterSending, State.setToken_afterSending, State.setXbuf_cfg,
    State.setN_cfg, State.setToken_cfg, State.afterSending_cfg, openFrame_cfg, State.setXbuf_n, State.setN_n]
  unfold takeExtras
  simp [State.setN, State.setXbuf]

/-- R113, R115: a framer call whose poll `j` is the first to bring another byte than `FILLER`. -/
theorem transmit_answered (idx : BitVec 6) (arg : Word32) (extra : Byte) (s : State) (j : Nat)
    (hj : j < s.cfg.cmdRetry.toNat) (h : ∀ i, i < j → s.env.xfer.nth (6 + i) = s.cfg.filler)
    (hne : s.env.xfer.nth (6 + j) ≠ s.cfg.filler) :
    transmit idx arg extra s =
      closeFrame (((((openFrame idx arg extra s).afterSending ((buildFrame s.cfg idx arg).toList ++
        List.replicate (j + 1 + extraCount extra) s.cfg.filler)).setToken (s.env.xfer.nth (6 + j)) true).setN
        (BitVec.ofNat 16 (j + 1))).setXbuf (received s.env.xfer (7 + j) (extraCount extra))) := by
  unfold transmit
  rw [sendFrame_eq, pollToken_answered _ j _ hj (by simpa using h) (by simpa using hne)]
  simp only [State.setXbuf_afterSending, State.setN_afterSending, State.setToken_afterSending, State.setXbuf_cfg,
    State.setN_cfg, State.setToken_cfg, State.afterSending_cfg, openFrame_cfg, State.setXbuf_n, State.setN_n,
    State.setXbuf_env, State.setN_env, State.setToken_env, State.afterSending_xfer_env, openFrame_env,
    State.afterSending_append, Answers.nth_skip, buildFrame_length]
  unfold takeExtras
  simp only [State.setToken_answered, if_true, readExtras_eq, State.setXbuf_afterSending, State.setN_afterSending,
    State.setToken_afterSending, State.afterSending_append, State.setXbuf_cfg, State.setN_cfg, State.setToken_cfg,
    State.afterSending_cfg, openFrame_cfg, State.setXbuf_extra, State.setN_extra, State.setToken_extra,
    State.afterSending_extra, openFrame_extra, State.setToken_xbuf, State.setN_xbuf, State.setXbuf_xbuf,
    List.nil_append, State.setXbuf_env, State.setN_env, State.setToken_env, State.afterSending_xfer_env, openFrame_env,
    received_skip, List.length_append, List.length_replicate, buildFrame_length, List.append_assoc,
    List.replicate_append_replicate, Nat.add_zero]
  rw [show 6 + (j + 1) = 7 + j by omega, show (0 : Count) + BitVec.ofNat 16 (j + 1) = BitVec.ofNat 16 (j + 1) by simp]
  rfl

/-- Every framer call is of one of the two kinds. -/
theorem poll_cases (a : Answers Byte) (filler : Byte) (k : Nat) :
    (∀ j, j < k → a.nth (6 + j) = filler) ∨
      ∃ j, j < k ∧ (∀ i, i < j → a.nth (6 + i) = filler) ∧ a.nth (6 + j) ≠ filler := by
  induction k with
  | zero => exact .inl fun j hj => absurd hj (by omega)
  | succ k ih =>
    rcases ih with h | ⟨j, hj, h, hne⟩
    · by_cases hk : a.nth (6 + k) = filler
      · refine .inl fun j hj => ?_
        rcases Nat.lt_succ_iff_lt_or_eq.mp hj with h1 | rfl
        · exact h j h1
        · exact hk
      · exact .inr ⟨k, by omega, h, hk⟩
    · exact .inr ⟨j, by omega, h, hne⟩

end Sys2Proof.Machine
end

