-- ==== Sys2Proof/Laws/Effects.lean ====
section
/-! SUPPORT. What a call of `TransmitCommand` (R110) can do to the state and to the trace, whatever the device answers,
and the induction over the attempts of a bounded loop (R120): the two lemmas that a proof about `INIT` or `WRITE` cites
in place of the framer and of the loops. -/

namespace Sys2Proof.Machine

/-- The events of the bus control and of the byte transceiver. -/
def Event.onBus : Event → Bool
  | .assert => true
  | .release => true
  | .xfer _ _ _ => true
  | .rate _ => false
  | .pwrOff => false
  | .pwrOn => false
  | .sensePresent _ => false
  | .senseWp _ => false
  | .delay _ => false

theorem exchange_onBus (a : Answers Byte) (d : Bool) (k : Nat) (l : List Byte) :
    ∀ e ∈ exchange a d k l, e.onBus = true := by
  induction l generalizing k with
  | nil => simp [exchange]
  | cons x l ih =>
    intro e he
    simp only [exchange, List.mem_cons] at he
    rcases he with rfl | he
    · rfl
    · exact ih _ e he

theorem exchange_count_assert (a : Answers Byte) (d : Bool) (k : Nat) (l : List Byte) :
    (exchange a d k l).count .assert = 0 := by
  induction l generalizing k with
  | nil => rfl
  | cons x l ih => simp [exchange, ih]

theorem busOf_exchange (a : Answers Byte) (d : Bool) (k : Nat) (l : List Byte) (m : List Event) :
    busOf ((exchange a d k l).reverse ++ m) = busOf m := by
  induction l generalizing k m with
  | nil => rfl
  | cons x l ih => simp [exchange, ih, busOf]

theorem ratesReleased_onBus (l m : List Event) (h : ∀ e ∈ l, e.onBus = true) :
    ratesReleased (l ++ m) ↔ ratesReleased m := by
  induction l with
  | nil => rfl
  | cons e l ih =>
    have := ih fun e he => h e (by simp [he])
    have h1 := h e (by simp)
    cases e <;> simp_all [Event.onBus, ratesReleased]

/-- What a framer call does, whatever the device answers (R110, R118, R123): it writes the framer's registers and the
bus, takes `answers` answers of the transceiver, and appends `events`, of which one is an `ASSERT`. -/
structure TransmitEffect (idx : BitVec 6) (arg : Word32) (extra : Byte) (s t : State) (answers : Nat)
    (events : List Event) : Prop where
  state : ∃ f n r1 answered xbuf, t =
    { s with
      idx := idx, arg := arg, extra := extra, f := f, n := n, r1 := r1, answered := answered, xbuf := xbuf
      framed := true, busAsserted := decide (extraNegative extra)
      env := { s.env with xfer := s.env.xfer.skip answers }, trace := events ++ s.trace }
  onBus : ∀ e ∈ events, e.onBus = true
  oneAssert : events.count .assert = 1
  bus : busOf (events ++ s.trace) = decide (extraNegative extra)

/-- The end of a framer call: from the state after the last poll or extra byte, the tail of R116 and R117. -/
theorem closeFrame_effect {idx : BitVec 6} {arg : Word32} {extra : Byte} {s u : State} (l : List Byte)
    (h : ∃ f n r1 answered xbuf, u =
      { s with
        idx := idx, arg := arg, extra := extra, f := f, n := n, r1 := r1, answered := answered, xbuf := xbuf
        framed := true, busAsserted := true, env := { s.env with xfer := s.env.xfer.skip l.length }
        trace := (exchange s.env.xfer s.dbg 0 l).reverse ++ .assert :: s.trace }) :
    ∃ m, TransmitEffect idx arg extra s (closeFrame u) (l.length + if extraNegative extra then 0 else 1) m := by
  obtain ⟨f, n, r1, an, xb, rfl⟩ := h
  unfold closeFrame
  simp only
  by_cases hn : extraNegative extra
  · simp only [if_pos hn, Nat.add_zero]
    refine ⟨(exchange s.env.xfer s.dbg 0 l).reverse ++ [.assert], ⟨f, n, r1, an, xb, ?_⟩, ?_, ?_, ?_⟩
    · simp [hn]
    · intro e he
      simp only [List.mem_append, List.mem_reverse, List.mem_singleton] at he
      rcases he with he | rfl
      · exact exchange_onBus _ _ _ _ e he
      · rfl
    · simp [exchange_count_assert]
    · rw [List.append_assoc, busOf_exchange]; simp [busOf, hn]
  · simp only [if_neg hn]
    refine ⟨.release :: (exchange s.env.xfer s.dbg 0 (l ++ [s.cfg.filler])).reverse ++ [.assert],
      ⟨f, n, r1, an, xb, ?_⟩, ?_, ?_, ?_⟩
    · simp [hn, State.releaseBus, State.xfer, State.emit, State.inByte, Answers.peek_eq, Answers.pop_eq,
        exchange_append, exchange]
    · intro e he
      simp only [List.cons_append, List.mem_cons, List.mem_append, List.mem_reverse, List.mem_nil_iff, or_false] at he
      rcases he with rfl | he | rfl
      · rfl
      · exact exchange_onBus _ _ _ _ e he
      · rfl
    · simp [exchange_count_assert]
    · simp [busOf, hn]

/-- Every framer call has the effect, for some number of answers and some events. -/
theorem transmit_effect (idx : BitVec 6) (arg : Word32) (extra : Byte) (s : State) :
    ∃ k m, TransmitEffect idx arg extra s (transmit idx arg extra s) k m := by
  rcases poll_cases s.env.xfer s.cfg.filler s.cfg.cmdRetry.toNat with hp | ⟨j, hj, hp, hne⟩
  · rw [transmit_silent _ _ _ s hp]
    exact ⟨_, closeFrame_effect _ ⟨_, _, _, _, _, rfl⟩⟩
  · rw [transmit_answered _ _ _ s j hj hp hne]
    exact ⟨_, closeFrame_effect _ ⟨_, _, _, _, _, rfl⟩⟩

/-- The induction over the attempts of a loop, `P k` for a state before an attempt with `k` attempts left. -/
theorem attempts_induction {e : FaultFlag} {attempt onGood again : State → State} {good : State → Bool}
    (P : Nat → State → Prop) (Q : State → Prop)
    (onSuccess : ∀ k s, P (k + 1) s → good (attempt s) = true → Q (onGood (attempt s)))
    (onLast : ∀ s, P 1 s → good (attempt s) = false →
      Q (takeFault e ((attempt s).setCnt ((attempt s).cnt - 1))))
    (onFailure : ∀ k s, P (k + 2) s → good (attempt s) = false →
      P (k + 1) (again ((attempt s).setCnt ((attempt s).cnt - 1))))
    (k : Nat) (s : State) (hk : k ≠ 0) (hs : P k s) : Q (attempts e attempt good onGood again k s) := by
  induction k generalizing s with
  | zero => exact absurd rfl hk
  | succ k ih =>
    unfold attempts
    cases hg : good (attempt s) with
    | true => exact onSuccess k s hs hg
    | false =>
      cases k with
      | zero => exact onLast s hs hg
      | succ k => exact ih _ (by omega) (onFailure k s hs hg)

/-- The same for a loop entered through its bound. -/
theorem boundedLoop_induction {bound : Count} {e : FaultFlag} {attempt onGood again : State → State}
    {good : State → Bool} (P : Nat → State → Prop) (Q : State → Prop)
    (onSuccess : ∀ k s, P (k + 1) s → good (attempt s) = true → Q (onGood (attempt s)))
    (onLast : ∀ s, P 1 s → good (attempt s) = false →
      Q (takeFault e ((attempt s).setCnt ((attempt s).cnt - 1))))
    (onFailure : ∀ k s, P (k + 2) s → good (attempt s) = false →
      P (k + 1) (again ((attempt s).setCnt ((attempt s).cnt - 1))))
    (s : State) (hs : P (attemptsLeft bound) (s.setCnt bound)) :
    Q (boundedLoop bound e attempt good onGood again s) :=
  attempts_induction P Q onSuccess onLast onFailure _ _ (Nat.pos_iff_ne_zero.mp (attemptsLeft_pos bound)) hs

end Sys2Proof.Machine
end

