-- ==== Sys2Proof/Laws/Memory.lean ====
section
/-! SUPPORT. The laws of the payload buffer: a write keeps the canonical form, a read after a write to the same place
gives the value written, and a write leaves every other place alone. -/

namespace Sys2Proof.Machine

theorem Memory.wf_nil : Memory.wf [] := by simp [Memory.wf]

theorem Memory.wf_tail {x : Host.Cell} {m : Memory} (h : Memory.wf (x :: m)) : Memory.wf m :=
  ⟨(List.pairwise_cons.mp h.1).2, fun y hy => h.2 y (List.mem_cons_of_mem _ hy)⟩

/-- Every address that `put` lists is the one written or was listed before. -/
theorem Memory.mem_put {m : Memory} {a : Nat} {b : Byte} {x : Host.Cell} (h : x ∈ m.put a b) :
    x ∈ m ∨ x = (a, b) := by
  induction m with
  | nil => simp only [Memory.put] at h; split at h <;> simp_all
  | cons y m ih =>
    obtain ⟨k, v⟩ := y
    simp only [Memory.put] at h
    split at h
    · split at h <;> simp_all
      tauto
    · split at h
      · split at h
        · exact .inl (List.mem_cons_of_mem _ h)
        · simp only [List.mem_cons] at h ⊢; tauto
      · simp only [List.mem_cons] at h ⊢
        rcases h with h | h
        · exact .inl (.inl h)
        · rcases ih h with h | h
          · exact .inl (.inr h)
          · exact .inr h

theorem Memory.put_wf {m : Memory} (h : m.wf) {a : Nat} (ha : a < 512) (b : Byte) : (m.put a b).wf := by
  induction m with
  | nil =>
    simp only [Memory.put]
    split
    · exact Memory.wf_nil
    · simp_all [Memory.wf]
  | cons y m ih =>
    obtain ⟨k, v⟩ := y
    have ht := Memory.wf_tail h
    have hlt : ∀ z ∈ m, k < z.1 := (List.pairwise_cons.mp h.1).1
    simp only [Memory.put]
    split
    · next hak =>
      split
      · exact h
      · next hb =>
        refine ⟨List.pairwise_cons.mpr ⟨?_, h.1⟩, ?_⟩
        · intro z hz
          rcases List.mem_cons.mp hz with rfl | hz
          · exact hak
          · exact lt_trans hak (hlt z hz)
        · intro z hz
          rcases List.mem_cons.mp hz with rfl | hz
          · exact ⟨ha, hb⟩
          · exact h.2 z hz
    · split
      · next hak =>
        subst hak
        split
        · exact ht
        · next hb =>
          refine ⟨List.pairwise_cons.mpr ⟨hlt, ht.1⟩, ?_⟩
          intro z hz
          rcases List.mem_cons.mp hz with rfl | hz
          · exact ⟨ha, hb⟩
          · exact ht.2 z hz
      · next h1 h2 =>
        have hk := ih ht
        refine ⟨List.pairwise_cons.mpr ⟨?_, hk.1⟩, ?_⟩
        · intro z hz
          rcases Memory.mem_put hz with hz | rfl
          · exact hlt z hz
          · show k < a
            omega
        · intro z hz
          rcases List.mem_cons.mp hz with rfl | hz
          · exact h.2 _ List.mem_cons_self
          · exact hk.2 z hz

/-- An address below every listed one reads as an unlisted byte. -/
theorem Memory.get_of_lt {m : Memory} {a : Nat} (h : ∀ z ∈ m, a < z.1) : m.get a = unlistedByte := by
  induction m with
  | nil => rfl
  | cons y m ih =>
    have h1 : a < y.1 := h y List.mem_cons_self
    simp only [Memory.get]
    rw [if_neg (by omega)]
    exact ih fun z hz => h z (List.mem_cons_of_mem _ hz)

theorem Memory.get_put_self {m : Memory} (h : m.wf) (a : Nat) (b : Byte) : (m.put a b).get a = b := by
  induction m with
  | nil =>
    simp only [Memory.put]
    split <;> simp_all [Memory.get]
  | cons y m ih =>
    obtain ⟨k, v⟩ := y
    have hlt : ∀ z ∈ m, k < z.1 := (List.pairwise_cons.mp h.1).1
    simp only [Memory.put]
    split
    · next hak =>
      split
      · next hb =>
        rw [hb]
        refine Memory.get_of_lt fun z hz => ?_
        rcases List.mem_cons.mp hz with rfl | hz
        · exact hak
        · exact lt_trans hak (hlt z hz)
      · simp [Memory.get]
    · split
      · next hak =>
        subst hak
        split
        · next hb => rw [hb]; exact Memory.get_of_lt hlt
        · simp [Memory.get]
      · next h1 h2 => simp only [Memory.get, if_neg h2]; exact ih (Memory.wf_tail h)

theorem Memory.get_put_other {m : Memory} {a c : Nat} (b : Byte) (hne : c ≠ a) (h : m.wf) :
    (m.put a b).get c = m.get c := by
  induction m with
  | nil =>
    simp only [Memory.put]
    split <;> simp [Memory.get, hne]
  | cons y m ih =>
    obtain ⟨k, v⟩ := y
    have hlt : ∀ z ∈ m, k < z.1 := (List.pairwise_cons.mp h.1).1
    simp only [Memory.put]
    split
    · split
      · rfl
      · simp [Memory.get, hne]
    · split
      · next hak =>
        subst hak
        split
        · simp [Memory.get, hne]
        · simp [Memory.get, hne]
      · simp only [Memory.get]
        split
        · rfl
        · exact ih (Memory.wf_tail h)

end Sys2Proof.Machine
end

