-- ==== Sys2Proof/Laws/PerInstr.lean ====
section
/-! SUPPORT. One law for every instruction, as syntax: the encoded word of an instruction, under the mask of its row
of `spec/opcode_table.json`, is the row's match. One lemma per constructor of `Instr`. -/

namespace Sys2Proof.Laws

/-- The table's own bits of a port word: 48 for a frame, 2 for an operation. -/
def tableBits : PortWord → BitVec 48
  | .frame v => v.extractLsb' 0 48
  | .hostop v => (v.extractLsb' 0 2).setWidth 48

/-- The "mask" and the "match" of an instruction's row. -/
def rowPattern : Instr → BitVec 48 × BitVec 48
  | .goIdleState _ => (0xFFFFFFFFFFFF, 0x400000000095)
  | .sendIfCond _ => (0xFFFFFFFFFFFF, 0x48000001AA87)
  | .sendOpCondHcs _ _ => (0xFFFFFFFFFF01, 0x414000000001)
  | .sendOpCondLegacy _ _ => (0xFFFFFFFFFF01, 0x410000000001)
  | .readOcr _ _ => (0xFFFFFFFFFF01, 0x7A0000000001)
  | .sendCsd _ _ => (0xFFFFFFFFFF01, 0x490000000001)
  | .crcOnOff _ _ => (0xFFFFFFFFFF01, 0x7B0000000001)
  | .setBlocklen _ _ => (0xFFFFFFFFFF01, 0x500000020001)
  | .writeSingleBlock _ _ _ => (0xFF0000000001, 0x580000000001)
  | .frame _ _ _ _ _ => (0xC00000000001, 0x400000000001)
  | .nop => (0x3, 0x0)
  | .cmd _ _ _ _ => (0x3, 0x1)
  | .init _ => (0x3, 0x2)
  | .write _ _ => (0x3, 0x3)

/-- A frame word's table bits are the frame. -/
theorem tableBits_frameWord (idx : BitVec 6) (arg : Word32) (crc : BitVec 7) (extra : Byte) (dbg : Bool) :
    tableBits (frameWord idx arg crc extra dbg) = frame48 idx arg crc :=
  field_eq _ _ fun i hi => by rw [frameWord_bit, if_pos (by omega), Nat.zero_add]

/-- An operation word's table bits are `op`. -/
theorem tableBits_hostopWord (op : BitVec 2) (idx : BitVec 6) (arg : Word32) (extra : Byte) (dbg : Bool)
    (sector : Word32) : tableBits (hostopWord op idx arg extra dbg sector) = op.setWidth 48 :=
  congrArg (BitVec.setWidth 48) (hostop_fields sector dbg extra arg idx op).1

/-- Two 48-bit words with the same bits. -/
theorem eq_of_bits (x y : BitVec 48) (h : ∀ j : Fin 48, x.getLsbD j = y.getLsbD j) : x = y :=
  BitVec.eq_of_getLsbD_eq fun j hj => h ⟨j, hj⟩

namespace EncodedRowBits

/-- The encoded word is one of the words that the instruction's row describes. -/
def Statement (i : Instr) : Prop := tableBits (encode i) &&& (rowPattern i).1 = (rowPattern i).2

theorem goIdleState (dbg : Bool) : Statement (.goIdleState dbg) := by
  rw [Statement, encode, tableBits_frameWord]; dsimp only [rowPattern]; decide

theorem sendIfCond (dbg : Bool) : Statement (.sendIfCond dbg) := by
  rw [Statement, encode, tableBits_frameWord]; dsimp only [rowPattern]; decide

theorem sendOpCondHcs (crc : BitVec 7) (dbg : Bool) : Statement (.sendOpCondHcs crc dbg) := by
  rw [Statement, encode, tableBits_frameWord]; dsimp only [rowPattern]; revert crc; decide

theorem sendOpCondLegacy (crc : BitVec 7) (dbg : Bool) : Statement (.sendOpCondLegacy crc dbg) := by
  rw [Statement, encode, tableBits_frameWord]; dsimp only [rowPattern]; revert crc; decide

theorem readOcr (crc : BitVec 7) (dbg : Bool) : Statement (.readOcr crc dbg) := by
  rw [Statement, encode, tableBits_frameWord]; dsimp only [rowPattern]; revert crc; decide

theorem sendCsd (crc : BitVec 7) (dbg : Bool) : Statement (.sendCsd crc dbg) := by
  rw [Statement, encode, tableBits_frameWord]; dsimp only [rowPattern]; revert crc; decide

theorem crcOnOff (crc : BitVec 7) (dbg : Bool) : Statement (.crcOnOff crc dbg) := by
  rw [Statement, encode, tableBits_frameWord]; dsimp only [rowPattern]; revert crc; decide

theorem setBlocklen (crc : BitVec 7) (dbg : Bool) : Statement (.setBlocklen crc dbg) := by
  rw [Statement, encode, tableBits_frameWord]; dsimp only [rowPattern]; revert crc; decide

theorem writeSingleBlock (arg : Word32) (crc : BitVec 7) (dbg : Bool) : Statement (.writeSingleBlock arg crc dbg) := by
  rw [Statement, encode, tableBits_frameWord]
  refine eq_of_bits _ _ fun j => ?_
  rw [BitVec.getLsbD_and, frame48_bit]
  fin_cases j <;> simp [rowPattern]

theorem frame (idx : BitVec 6) (arg : Word32) (crc : BitVec 7) (extra : Byte) (dbg : Bool) :
    Statement (.frame idx arg crc extra dbg) := by
  rw [Statement, encode, tableBits_frameWord]
  refine eq_of_bits _ _ fun j => ?_
  rw [BitVec.getLsbD_and, frame48_bit]
  fin_cases j <;> simp [rowPattern]

theorem nop : Statement .nop := by
  rw [Statement, encode, tableBits_hostopWord]; decide

theorem cmd (idx : BitVec 6) (arg : Word32) (extra : Byte) (dbg : Bool) : Statement (.cmd idx arg extra dbg) := by
  rw [Statement, encode, tableBits_hostopWord]; dsimp only [rowPattern]; decide

theorem init (dbg : Bool) : Statement (.init dbg) := by
  rw [Statement, encode, tableBits_hostopWord]; dsimp only [rowPattern]; decide

theorem write (sector : Word32) (dbg : Bool) : Statement (.write sector dbg) := by
  rw [Statement, encode, tableBits_hostopWord]; dsimp only [rowPattern]; decide

end EncodedRowBits

end Sys2Proof.Laws
end

