-- ==== Sys2Proof/Tests/Slice0.lean ====
section
/-! SUPPORT. Tests: decoding, from the "encoding" column of `spec/opcode_table.json`; the checks of `WellFormed`; single
steps, from the vectors of `95_test_vectors.md`; and for each statement with hypotheses a state and operands that meet
them all. -/

namespace Sys2Proof.Tests

open Sys2Proof.Machine

/-! ### Decoding: one word for each row, bit by bit from the table -/

theorem test_decode_goIdleState :
    decodeTableWord 48 0b010000000000000000000000000000000000000010010101 = some (.goIdleState false) := by decide

theorem test_decode_sendIfCond :
    decodeTableWord 48 0b010010000000000000000000000000011010101010000111 = some (.sendIfCond false) := by decide

theorem test_decode_sendOpCondHcs :
    decodeTableWord 48 0b010000010100000000000000000000000000000011111111 = some (.sendOpCondHcs 0x7F false) := by
  decide

theorem test_decode_sendOpCondLegacy :
    decodeTableWord 48 0b010000010000000000000000000000000000000011111111 = some (.sendOpCondLegacy 0x7F false) := by
  decide

theorem test_decode_readOcr :
    decodeTableWord 48 0b011110100000000000000000000000000000000011111111 = some (.readOcr 0x7F false) := by decide

theorem test_decode_sendCsd :
    decodeTableWord 48 0b010010010000000000000000000000000000000011111111 = some (.sendCsd 0x7F false) := by decide

theorem test_decode_crcOnOff :
    decodeTableWord 48 0b011110110000000000000000000000000000000011111111 = some (.crcOnOff 0x7F false) := by decide

theorem test_decode_setBlocklen :
    decodeTableWord 48 0b010100000000000000000000000000100000000011111111 = some (.setBlocklen 0x7F false) := by decide

/-- F10: `58 12 34 56 78 FF`. -/
theorem test_decode_writeSingleBlock :
    decodeTableWord 48 0b010110000001001000110100010101100111100011111111 =
      some (.writeSingleBlock 0x12345678 0x7F false) := by decide

/-- F11: `51 DE AD BE EF FF`. -/
theorem test_decode_frame :
    decodeTableWord 48 0b010100011101111010101101101111101110111111111111 =
      some (.frame 17 0xDEADBEEF 0x7F 0 false) := by decide

/-- The six bytes of F2, `48 00 00 01 AA 87`, are the word of `SEND_IF_COND`. -/
theorem test_frame_bytes : frameOfBytes 0x48 0x00 0x00 0x01 0xAA 0x87 = frame48 8 0x1AA 0x43 := by decide

theorem test_decode_nop : decodeTableWord 8 0b00 = some .nop := by decide

theorem test_decode_cmd : decodeTableWord 8 0b01 = some (.cmd 0 0 0 false) := by decide

theorem test_decode_init : decodeTableWord 8 0b10 = some (.init false) := by decide

theorem test_decode_write : decodeTableWord 8 0b11 = some (.write 0 false) := by decide

/-- P6, `op = 01`, `idx = 0b010001`, `arg = 0xDEADBEEF`, `extra = 0x02`, in the places of log entry 1. -/
theorem test_decode_operands :
    decode (.hostop (0x02DEADBEEF00 ||| 0b01000101)) = .ok (.cmd 17 0xDEADBEEF 2 false) := by decide

/-- A start bit 1, a transmit marker 0, a stop bit 0. -/
theorem test_decode_refuses :
    decode (.frame 0xC00000000095) = .error .startBit ∧ decode (.frame 0x000000000095) = .error .transmitMarker ∧
      decode (.frame 0x400000000094) = .error .stopBit := by decide

/-! ### Well-formedness: an ill-formed term for each check -/

theorem test_wellFormed_check_value :
    (Instr.readOcr 0x00 false).wellFormed = false ∧ (Instr.frame 0 1 0x7F 0 false).wellFormed = false ∧
      (Instr.readOcr 0x7F false).wellFormed = true := by decide

theorem test_wellFormed_named_row :
    (Instr.frame 58 0 0x7F 0 false).wellFormed = false ∧ (Instr.frame 58 0 0x7F 4 false).wellFormed = true := by decide

/-! ### States to run from -/

/-- The state an outcome gives; reset for a stop. -/
def stateOf : Host.Outcome State Fault Refusal → State
  | .next s => s
  | .fault _ => State.reset
  | .refused _ => State.reset

/-- The block after reset with a device that is present, unprotected, and answers this script and then `FF`. -/
def device (script : List Byte) : State :=
  { State.reset with env := ⟨⟨script, 0xFF⟩, ⟨[], true⟩, ⟨[], false⟩⟩ }

/-- The same after an `INIT` that made it ready, of this capacity class. -/
def ready (c : CapClass) (script : List Byte) : State :=
  { device script with dev := ⟨c, false, 0, { StatusRecord.defaults with ok := true }⟩ }

def ffs (n : Nat) : List Byte := List.replicate n 0xFF

/-- `C(r, e...)` of the vectors: a command answered at the first poll, with its cleanup byte. -/
def answer (r : Byte) (extras : List Byte) : List Byte := ffs 6 ++ [r] ++ extras ++ [0xFF]

/-- `PRIME` and the answers to steps 4 and 5 of a version-2 device. -/
def upToProbe : List Byte := ffs 10 ++ answer 0x01 [] ++ answer 0x01 [0x00, 0x00, 0x01, 0xAA]

/-- `BASE` of the vectors. -/
def base : List Byte := upToProbe ++ answer 0x00 [] ++ answer 0x00 [0xC0, 0xFF, 0x80, 0x00]

/-- The record of P2, with its token, its cleanup byte, and the two answers of step 11. -/
def record : List Byte :=
  [0xFE, 0x40, 0x0E, 0x00, 0x32, 0x5B, 0x59, 0x00, 0x00, 0x1F, 0x5E, 0x7F, 0x80, 0x0A, 0x40, 0x00, 0x01, 0xAB, 0xFF] ++
    answer 0x00 [] ++ answer 0x00 []

/-- A block in this phase with this retry counter. -/
def inPhase (p : Phase) (cnt : Count) (s : State) : State := { s with st := p, cnt := cnt }

/-- The start of this instruction is the next input. -/
def starting (i : Instr) (s : State) : State := { s with inputs := [⟨0, .start (encode i)⟩] }

def runInit (script : List Byte) : State := stateOf (exec (.init false) (device script))

/-! ### Single steps, from the vectors -/

/-- T4. -/
theorem test_cmd_answered :
    let t := stateOf (exec (.cmd 8 0x1AA 4 false) (device (ffs 6 ++ [0x01, 0x00, 0x00, 0x01, 0xAA])))
    t.r1 = 0x01 ∧ t.answered = true ∧ t.xbuf = [0x00, 0x00, 0x01, 0xAA] ∧ t.busAsserted = false ∧
      t.trace.length = 14 := by decide +kernel

/-- T7: never answered, `extra = -1`. -/
theorem test_cmd_unanswered :
    let t := stateOf (exec (.cmd 24 0 0xFF false) (device []))
    t.r1 = 0xFF ∧ t.answered = false ∧ t.busAsserted = true ∧ t.trace.length = 261 := by decide +kernel

/-- P1. -/
theorem test_init_absent :
    let t := stateOf (exec (.init false) State.reset)
    t.dev.status.word = 0x001 ∧ t.resOk = false ∧ t.trace.length = 5 := by decide +kernel

/-- P2 with every answer at the first poll (`BASE`, then the record): size field `0x001F5E`. -/
theorem test_init_ready :
    let t := runInit (base ++ ffs 6 ++ [0x00] ++ record)
    t.dev.status.word = 0x800 ∧ t.dev.capClass = .high ∧ t.dev.legacy = false ∧ t.dev.usableCapacity = 8223743 ∧
      t.dev.status.timeoutCount = 30 ∧ t.busAsserted = false := by decide +kernel

/-- P4: the argument, the result and the diagnostic counter. -/
theorem test_write_standard :
    let t := stateOf (exec (.write 3 false)
      (ready .standard (ffs 7 ++ [0x00] ++ ffs 515 ++ [0xE5, 0x00, 0x00, 0xFF, 0xFF])))
    t.arg = 0x00000600 ∧ t.resOk = true ∧ t.nextAddr = 4 ∧ t.dev.status.word = 0x800 ∧
      t.dev.status.timeoutCount = 65533 ∧ t.trace.length = 530 := by decide +kernel

/-- P5: rejected at the data response. -/
theorem test_write_rejected :
    let t := stateOf (exec (.write 0x12345678 false) (ready .high (ffs 7 ++ [0x00] ++ ffs 515 ++ [0x0B])))
    t.arg = 0x12345678 ∧ t.resOk = false ∧ t.nextAddr = 0 ∧ t.dev.status.word = 0xA00 ∧ t.busAsserted = false ∧
      t.trace.length = 526 := by decide +kernel

/-- F1, T1. -/
theorem test_goIdleState :
    let t := stateOf (exec (.goIdleState false) (device (ffs 6 ++ [0x01])))
    t.f = #v[0x40, 0x00, 0x00, 0x00, 0x00, 0x95] ∧ t.r1 = 0x01 ∧ t.trace.length = 10 := by decide +kernel

/-- F2. -/
theorem test_sendIfCond :
    (stateOf (exec (.sendIfCond false) (device (ffs 6 ++ [0x01])))).f = #v[0x48, 0x00, 0x00, 0x01, 0xAA, 0x87] := by
  decide +kernel

/-- F3. -/
theorem test_sendOpCondHcs :
    (stateOf (exec (.sendOpCondHcs 0x7F false) (device (ffs 6 ++ [0x01])))).f =
      #v[0x41, 0x40, 0x00, 0x00, 0x00, 0xFF] := by decide +kernel

/-- F4. -/
theorem test_sendOpCondLegacy :
    (stateOf (exec (.sendOpCondLegacy 0x7F false) (device (ffs 6 ++ [0x01])))).f =
      #v[0x41, 0x00, 0x00, 0x00, 0x00, 0xFF] := by decide +kernel

/-- F5, T8. -/
theorem test_readOcr :
    let t := stateOf (exec (.readOcr 0x7F false) (device (ffs 6 ++ [0x05, 0x11, 0x22, 0x33, 0x44])))
    t.f = #v[0x7A, 0x00, 0x00, 0x00, 0x00, 0xFF] ∧ t.r1 = 0x05 ∧ t.xbuf = [0x11, 0x22, 0x33, 0x44] := by
  decide +kernel

/-- F6, T6: the bus is left asserted. -/
theorem test_sendCsd :
    let t := stateOf (exec (.sendCsd 0x7F false) (device (ffs 7 ++ [0x00])))
    t.f = #v[0x49, 0x00, 0x00, 0x00, 0x00, 0xFF] ∧ t.busAsserted = true ∧ t.trace.length = 9 := by decide +kernel

/-- F7. -/
theorem test_crcOnOff :
    (stateOf (exec (.crcOnOff 0x7F false) (device (ffs 6 ++ [0x00])))).f = #v[0x7B, 0x00, 0x00, 0x00, 0x00, 0xFF] := by
  decide +kernel

/-- F8. -/
theorem test_setBlocklen :
    (stateOf (exec (.setBlocklen 0x7F false) (device (ffs 6 ++ [0x00])))).f =
      #v[0x50, 0x00, 0x00, 0x02, 0x00, 0xFF] := by decide +kernel

/-- F10. -/
theorem test_writeSingleBlock :
    let t := stateOf (exec (.writeSingleBlock 0x12345678 0x7F false) (device (ffs 6 ++ [0x00])))
    t.f = #v[0x58, 0x12, 0x34, 0x56, 0x78, 0xFF] ∧ t.busAsserted = true := by decide +kernel

/-- F13: the check value is by index whatever the argument. -/
theorem test_frame :
    (stateOf (exec (.frame 0 1 0x4A 0 false) (device (ffs 6 ++ [0x01])))).f =
      #v[0x40, 0x00, 0x00, 0x00, 0x01, 0x95] := by decide +kernel

/-- U24: no `done`. -/
theorem test_nop : (stateOf (exec .nop State.reset)).done = false := by decide

/-- R263: a payload byte that the host writes is the one read; writing 0 removes the entry. -/
theorem test_payload :
    memRead (hostPoke State.reset 511 0xA5) 511 = 0xA5 ∧ memRead (hostPoke State.reset 511 0xA5) 510 = 0x00 ∧
      (hostPoke (hostPoke State.reset 511 0xA5) 511 0x00).mem = [] := by decide

/-- E4. -/
theorem test_capacity_v1 :
    decodeCapacity [0, 0, 0, 0, 0, 0x09, 0x00, 0xFF, 0xC0, 0x03, 0x80, 0, 0, 0, 0, 0, 0] = 524287 := by decide

/-- A word of the table as the first instruction after reset: N1 through a step. -/
theorem test_fetch_word :
    (stateOf (step (State.reset.withFetchWord 8 2))).dev.status.noCard = true ∧
      (stateOf (step (State.reset.withFetchWord 48 0x400000000095))).f = #v[0x40, 0, 0, 0, 0, 0x95] := by
  decide +kernel

/-! ### Witnesses: for each statement with hypotheses, a state and operands that meet them together. The device, its
script and the operands are those of the vector named in the docstring, where one is named. -/

theorem test_atRest_device (script : List Byte) : (device script).AtRest := ⟨rfl, rfl⟩

theorem test_atRest_ready (c : CapClass) (script : List Byte) : (ready c script).AtRest := ⟨rfl, rfl⟩

/-- Bounds of `extra` at which a `CMD` still starts, and the first at which it is refused. -/
theorem test_witness_extra_range :
    ¬ extraRefused Config.standard 4 ∧ ¬ extraRefused Config.standard 0 ∧ ¬ extraRefused Config.standard 0xFF ∧
      ¬ extraRefused Config.standard 0x80 ∧ (State.reset.cfg.xbufMax : Int) < (5 : Byte).toInt ∧
      ¬ extraRefused Config.standard Config.standard.respExtra ∧ 0 ≤ Config.standard.respExtra.toInt ∧
      State.reset.st = .idle := by decide

theorem test_witness_DecodeOfEncodeIsTheInstruction :
    (Instr.frame 17 0xDEADBEEF 0x7F 0x80 true).wellFormed = true ∧ (Instr.goIdleState true).wellFormed = true ∧
      (Instr.writeSingleBlock 0xFFFFFFFF 0x7F true).wellFormed = true := by decide

theorem test_witness_DecodedFrameKeepsEveryBit :
    decode (.frame 0x1FF7FFFFFFFFFFF) = .ok (.frame 63 0xFFFFFFFF 0x7F 0xFF true) ∧
      decode (.frame 0x48000001AA87) = .ok (.sendIfCond false) := by decide

theorem test_witness_MalformedFrameWordsAreRefused :
    (0x800000000000 : BitVec 57).getLsbD 47 = true ∧
      ((0x000000000001 : BitVec 57).getLsbD 47 = false ∧ (0x000000000001 : BitVec 57).getLsbD 46 = false) ∧
      ((0x400000000000 : BitVec 57).getLsbD 47 = false ∧ (0x400000000000 : BitVec 57).getLsbD 46 = true ∧
        (0x400000000000 : BitVec 57).getLsbD 0 = false) ∧
      ∀ w : BitVec 57, ({ State.reset with inputs := [⟨0, .start (.frame w)⟩] } : State).st = .idle := by
  refine ⟨by decide, by decide, by decide, fun _ => rfl⟩

theorem test_witness_AStepStopsOnlyOnAMalformedFrame :
    step { State.reset with inputs := [⟨0, .start (.frame 0x800000000000)⟩] } = .refused .frameStartBit := rfl

theorem test_witness_CheckValueIsLookedUpByIndex :
    (Config.standard.crcTable.map Prod.fst).Nodup ∧ (8, 0x43) ∈ Config.standard.crcTable ∧
      ∀ p ∈ Config.standard.crcTable, p.1 ≠ 63 := by simp [Config.standard]

theorem test_witness_AStepRunsTheDecodedInstruction :
    (starting (.cmd 17 0xDEADBEEF 2 true) State.reset).st = .idle ∧
      decode (encode (.cmd 17 0xDEADBEEF 2 true)) = .ok (.cmd 17 0xDEADBEEF 2 true) := by decide

theorem test_witness_AnIdleBlockWaitsAndABusyOneIgnoresStarts :
    State.reset.AtRest ∧ (starting .nop (inPhase .wBusy 1 State.reset)).st ≠ .idle := ⟨⟨rfl, rfl⟩, by decide⟩

theorem test_witness_AResetInputAbandonsTheOperation :
    ∃ s : State, s.st = .wBusy ∧ s.inputs = [⟨0, .reset⟩] :=
  ⟨{ State.reset with st := .wBusy, inputs := [⟨0, .reset⟩] }, rfl, rfl⟩

theorem test_witness_AHostWriteChangesOneByte :
    ∃ s : State, Memory.wf s.mem ∧ s.mem ≠ [] ∧ s.inputs = [⟨0, .poke 511 0x00⟩] :=
  ⟨{ State.reset with mem := [(0, 0x01), (511, 0xA5)], inputs := [⟨0, .poke 511 0x00⟩] }, by decide, by decide, rfl⟩

/-- T9: `xbuf[0]` holds a value and `xbuf[1]` does not; a block that is busy. -/
theorem test_witness_AnIdleBlockShowsItsResults :
    (let t := stateOf (exec (.cmd 13 0 1 false) (device (ffs 6 ++ [0x80, 0x55])))
     t.st = .idle ∧ 0 < t.xbuf.length ∧ t.xbuf.length ≤ 1 ∧ t.framed = true ∧ State.reset.framed = false) ∧
      (inPhase .wBusy 1 State.reset).st ≠ .idle ∧ HostReg.xbuf 0 ≠ .busy ∧ HostReg.xbuf 0 ≠ .done ∧
      HostReg.xbuf 0 ≠ .busAsserted := by
  decide +kernel

/-- A configuration in which steps 5 and 6 ask for more extra bytes than `xbuf` has. -/
theorem test_witness_TooManyExtraBytesAreRefused :
    ∃ s : State, s.st = .idle ∧ (s.cfg.xbufMax : Int) < s.cfg.respExtra.toInt :=
  ⟨{ State.reset with cfg := { Config.standard with respExtra := 5 } }, rfl, by decide⟩

/-- T6 and T2: an answer at the first poll and at the last. -/
theorem test_witness_AnAnsweredCmd :
    (0 < (device (ffs 6 ++ [0x00])).cfg.cmdRetry.toNat ∧ (device (ffs 6 ++ [0x00])).env.xfer.nth (6 + 0) ≠ 0xFF) ∧
      (253 < (device (ffs 259 ++ [0x01])).cfg.cmdRetry.toNat ∧
        (∀ j, j < 253 → (device (ffs 259 ++ [0x01])).env.xfer.nth (6 + j) = 0xFF) ∧
        (device (ffs 259 ++ [0x01])).env.xfer.nth (6 + 253) ≠ 0xFF) := by decide +kernel

/-- T3: an answer one poll too late, with the default bound. -/
theorem test_witness_AnUnansweredCmd :
    (∀ j, j < (device (ffs 260 ++ [0x01])).cfg.cmdRetry.toNat →
      (device (ffs 260 ++ [0x01])).env.xfer.nth (6 + j) = (device (ffs 260 ++ [0x01])).cfg.filler) ∧
      (device (ffs 260 ++ [0x01])).cfg.cmdRetry = 254 := by decide +kernel

theorem test_witness_ACmdIssuesABoundedNumberOfEvents : (device []).cfg = Config.standard := rfl

/-- Every instruction answers a next state, which `exec … = .next t` in a hypothesis asks for. -/
theorem test_witness_exec_next (i : Instr) (s : State) : exec i s = .next (stateOf (exec i s)) := by
  cases i <;> rfl

/-- A wire command with either selection. -/
theorem test_witness_DebugSelectionIsOnlyATag :
    State.reset.AtRest ∧ (Instr.readOcr 0x7F false).withDebug true = .readOcr 0x7F true ∧
      (Instr.readOcr 0x7F false).withDebug (!true) = .readOcr 0x7F false := ⟨⟨rfl, rfl⟩, rfl, rfl⟩

/-- N1, N2. -/
theorem test_witness_AbsentAndProtectedDevicesEndInit :
    State.reset.env.present.nth 0 = false ∧
      ∃ s : State, s.AtRest ∧ s.env.present.nth 0 = true ∧ s.env.writeProt.nth 0 = true :=
  ⟨rfl, { State.reset with env := ⟨⟨[], 0xFF⟩, ⟨[], true⟩, ⟨[], true⟩⟩ }, ⟨rfl, rfl⟩, rfl, rfl⟩

/-- N4. -/
theorem test_witness_ASilentDeviceEndsInitWithIdleFailed :
    (device []).env.present.nth 0 = true ∧ (device []).env.writeProt.nth 0 = false ∧
      ∀ k, (device []).env.xfer.nth k = (device []).cfg.filler := ⟨rfl, rfl, fun _ => rfl⟩

/-- N3, N9, N11: the returns of steps 4 and 6. -/
theorem test_witness_StateAtEachReturnOfInit_early :
    (runInit (ffs 10 ++ answer 0x00 [])).dev.status.word = 0x004 ∧
      (runInit (upToProbe ++ answer 0x00 [] ++ answer 0x01 [0xC0, 0xFF, 0x80, 0x00])).dev.status.word = 0x010 ∧
      (runInit (upToProbe ++ answer 0x00 [] ++ answer 0x00 [0x40, 0xFF, 0x80, 0x00])).dev.status.word = 0x020 := by
  decide +kernel

/-- N2 and N5: a protected device; the other policy of step 5, which leaves no flag. -/
theorem test_witness_StateAtEachReturnOfInit_policy :
    (stateOf (exec (.init false) { State.reset with env := ⟨⟨[], 0xFF⟩, ⟨[], true⟩, ⟨[], true⟩⟩ })).dev.status.word =
        0x002 ∧
      (let s := device (ffs 10 ++ answer 0x01 [] ++ answer 0x05 [0xFF, 0xFF, 0xFF, 0xFF])
       let t := stateOf (exec (.init false) { s with cfg := { s.cfg with v1Policy := .stop } })
       t.dev.status.word = 0x000 ∧ t.dev.legacy = true ∧ t.trace.length = 42) := by
  decide +kernel

/-- N15: a device that stays idle. N19: no data-start token. -/
theorem test_witness_StateAtEachReturnOfInit_late :
    (let s := device (upToProbe ++ answer 0x01 [])
     let t := stateOf (exec (.init false) { s with cfg := { s.cfg with opcondRetry := 1 } })
     t.dev.status.word = 0x008) ∧
      (let t := runInit (base ++ ffs 6 ++ [0x00])
       t.dev.status.word = 0x080 ∧ t.dev.status.timeoutCount = 0 ∧ t.busAsserted = false) := by
  decide +kernel

/-- N17 with one attempt. -/
theorem test_witness_StateAtEachReturnOfInit_csd :
    (let s := device (base ++ ffs 6 ++ [0x01])
     let t := stateOf (exec (.init false) { s with cfg := { s.cfg with csdCmdRetry := 1 } })
     t.dev.status.word = 0x040 ∧ t.dev.capClass = .high) := by
  decide +kernel

/-- P2 with every answer at the first poll, and N12: both classes of the high-capacity branch, and the premises on the
configuration. -/
theorem test_witness_StateAtEachReturnOfInit_class :
    (let t := runInit (base ++ ffs 6 ++ [0x00] ++ record)
     t.dev.status.ok = true ∧ t.dev.legacy = false ∧ t.dev.capClass = .high) ∧
      (let t := runInit (upToProbe ++ answer 0x00 [] ++ answer 0x00 [0x80, 0xFF, 0x80, 0x00] ++ ffs 6 ++ [0x00] ++ record)
       t.dev.status.ok = true ∧ t.dev.legacy = false ∧ t.dev.capClass = .standard) ∧
      0 < (device []).cfg.respExtra.toInt ∧ (∀ p ∈ (device []).cfg.ocrAccept, p.2 = true) ∧
      (device []).cfg.opcondRetry ≠ 0 ∧ (device []).cfg.csdTokenRetry ≠ 0 := by
  decide +kernel

theorem test_witness_WhatInitLeavesUnchanged : ∃ s : State, s.AtRest ∧ HeldInv s ∧ s.trace ≠ [] :=
  ⟨{ device [] with trace := [.release, .assert] }, ⟨rfl, rfl⟩, ⟨trivial, rfl⟩, by decide⟩

/-- N9, N11, N12: the three outcomes of the OCR read, at the bounds of bit 7. -/
theorem test_witness_OcrBitsAreBitsSevenAndSix :
    let s := inPhase (.judge .n6Ocr) 0 ((device []).setToken 0x00 true)
    s.st = .judge .n6Ocr ∧ s.cfg = Config.standard ∧ s.answered = true ∧ s.r1 = 0x00 ∧
      (s.setToken 0x01 true).r1 ≠ 0x00 ∧ (s.setToken 0xFF false).answered = false ∧
      (s.setXbuf [0x7F]).xbuf[0]? = some 0x7F ∧ (0x7F : Byte).toNat < 128 ∧ 128 ≤ (0x80 : Byte).toNat :=
  ⟨rfl, rfl, rfl, rfl, by decide, rfl, rfl, by decide, by decide⟩

theorem test_witness_StatusAfterAnyInit : State.reset.cfg.v1Policy = .legacyBranch := rfl

theorem test_witness_RatesChangeOnlyWhileReleased :
    busOf (device []).trace = false ∧ ratesReleased (device []).trace := ⟨rfl, trivial⟩

/-- Two blocks with one environment and different histories. -/
theorem test_witness_InitDependsOnNothingOld :
    ∃ u : State, u.AtRest ∧ (device []).cfg = u.cfg ∧ (device []).env = u.env ∧ u.dev ≠ (device []).dev ∧
      u.trace ≠ (device []).trace :=
  ⟨{ ready .high [] with trace := [.assert], busAsserted := true, r1 := 0x01 }, ⟨rfl, rfl⟩, rfl, rfl, by decide,
    by decide⟩

/-- Cases (a), (b), (c) of step 5: N5, P2, N6. -/
theorem test_witness_StepFiveHasThreeCases :
    let s := inPhase (.judge .n5IfCond) 0 ((device []).setToken 0x01 true)
    s.st = .judge .n5IfCond ∧ s.cfg = Config.standard ∧
      (s.setToken 0x05 true).r1 ≠ 0x01 ∧ (s.setToken 0xFF false).answered = false ∧
      (s.setXbuf [0x00, 0x00, 0x01, 0xAA]).answered = true ∧ (s.setXbuf [0x00, 0x00, 0x01, 0xAA]).r1 = 0x01 ∧
      (s.setXbuf [0x00, 0x00, 0x01, 0xAA]).xbuf[2]? = some 0x01 ∧
      (s.setXbuf [0x00, 0x00, 0x01, 0xAB]).xbuf[3]? = some 0xAB ∧
      (s.setXbuf [0x00, 0x00, 0x11, 0xAA]).xbuf[2]? = some 0x11 := ⟨rfl, rfl, by decide, rfl, rfl, rfl, rfl, rfl, rfl⟩

/-- Ready with error bits set (N13), not ready, the last attempt and one before it, on both branches. -/
theorem test_witness_AnOpcondAttempt :
    let s := inPhase (.judge .n6OpcondHc) 1 ((device []).setToken 0x04 true)
    s.st = .judge .n6OpcondHc ∧ s.answered = true ∧ s.r1 &&& s.cfg.r1IdleBit = 0 ∧
      (s.setToken 0x01 true).r1 &&& s.cfg.r1IdleBit ≠ 0 ∧ s.cnt = 1 ∧ (s.setCnt 200).cnt ≠ 1 ∧
      (s.setCnt 0).cnt ≠ 1 ∧ (inPhase (.judge .n7OpcondLegacy) 1 s).st = .judge .n7OpcondLegacy := by decide

theorem test_witness_ASendCsdAttempt :
    let s := inPhase (.judge .n9CsdCmd) 1 ((device []).setToken 0x00 true)
    s.st = .judge .n9CsdCmd ∧ s.answered = true ∧ s.r1 = s.cfg.r1Accepted ∧
      (s.setToken 0x04 true).r1 ≠ s.cfg.r1Accepted ∧ s.cnt = 1 ∧ (s.setCnt 100).cnt ≠ 1 := by decide

theorem test_witness_ATokenPoll :
    let s := inPhase .n9CsdToken 1 (device [0xFE])
    s.st = .n9CsdToken ∧ s.env.xfer.nth 0 = s.cfg.tokenStart ∧ 0 < s.cfg.csdLen ∧
      (inPhase .n9CsdToken 1 (device [0x00])).env.xfer.nth 0 ≠ s.cfg.tokenStart ∧ s.cnt = 1 ∧
      (s.setCnt 30).cnt ≠ 1 := by decide

/-- The first record of version 2, the last of version 1 with the least defined exponent, and exponent 8. -/
theorem test_witness_capacity :
    (let r : List Byte := [0x40, 0, 0, 0, 0, 0, 0, 0x3F, 0xFF, 0xFF, 0, 0, 0, 0, 0, 0, 0]
     r.length = 17 ∧ 64 ≤ (heldAt r 0).toNat) ∧
      (let r : List Byte := [0x3F, 0, 0, 0, 0, 0x09, 0, 0, 0, 0, 0, 0, 0, 0, 0, 0, 0]
       r.length = 17 ∧ (heldAt r 0).toNat < 64 ∧ 9 ≤ (heldAt r 5).toNat % 16) ∧
      (let r : List Byte := [0x3F, 0, 0, 0, 0, 0x08, 0, 0, 0, 0, 0, 0, 0, 0, 0, 0, 0]
       (heldAt r 0).toNat < 64 ∧ (heldAt r 5).toNat % 16 < 9) := by decide

theorem test_witness_CapacityDependsOnTheReadBytesOnly :
    ∀ k, k = 0 ∨ (5 ≤ k ∧ k ≤ 10) →
      ([0x40, 1, 1, 1, 1, 0, 0, 0, 0, 0, 0] : List Byte)[k]? = ([0x40, 2, 2, 2, 2, 0, 0, 0, 0, 0, 0, 7] : List Byte)[k]? := by
  intro k hk
  obtain rfl | rfl | rfl | rfl | rfl | rfl | rfl : k = 0 ∨ k = 5 ∨ k = 6 ∨ k = 7 ∨ k = 8 ∨ k = 9 ∨ k = 10 := by omega
  all_goals rfl

theorem test_witness_WriteScalesTheAddressByTheClass :
    (ready .high []).dev.capClass = .high ∧ (ready .standard []).dev.capClass = .standard := ⟨rfl, rfl⟩

/-- W3, answered at the first poll and at the last; W4, never answered. -/
theorem test_witness_ARejectedWriteCommandSendsNoData :
    ((ready .standard (ffs 6 ++ [0x04])).env.xfer.nth (6 + 0) ≠ 0xFF ∧
        (ready .standard (ffs 6 ++ [0x04])).env.xfer.nth (6 + 0) ≠ 0x00) ∧
      ((∀ j, j < 253 → (ready .standard (ffs 259 ++ [0x04])).env.xfer.nth (6 + j) = 0xFF) ∧
        (ready .standard (ffs 259 ++ [0x04])).env.xfer.nth (6 + 253) = 0x04) ∧
      253 < (ready .standard []).cfg.cmdRetry.toNat ∧
      ∀ j, j < (ready .standard []).cfg.cmdRetry.toNat → (ready .standard []).env.xfer.nth (6 + j) = 0xFF := by
  decide +kernel

/-- P4: `k = 1`, `z = 2`; and a device that is not busy, `k = 253`, `z = 0`. -/
theorem test_witness_AnAcceptedWrite :
    (let s := ready .standard (ffs 7 ++ [0x00] ++ ffs 515 ++ [0xE5, 0x00, 0x00, 0xFF, 0xFF])
     s.cfg = Config.standard ∧ (∀ j, j < 1 → s.env.xfer.nth (6 + j) = 0xFF) ∧ s.env.xfer.nth (6 + 1) = 0x00 ∧
       s.env.xfer.nth (522 + 1) &&& 0x0F = 0x05 ∧ (∀ j, j < 2 → s.env.xfer.nth (523 + 1 + j) = 0x00) ∧
       s.env.xfer.nth (523 + 1 + 2) ≠ 0x00) ∧
      (let s := ready .high (ffs 259 ++ [0x00] ++ ffs 515 ++ [0x05])
       (∀ j, j < 253 → s.env.xfer.nth (6 + j) = 0xFF) ∧ s.env.xfer.nth (6 + 253) = 0x00 ∧
         s.env.xfer.nth (522 + 253) &&& 0x0F = 0x05 ∧ s.env.xfer.nth (523 + 253 + 0) ≠ 0x00) :=
  ⟨⟨rfl, by decide +kernel⟩, by decide +kernel⟩

/-- R8, R206: the poll that fails last and the `RELEASE` of its fault are two steps. -/
theorem test_busy_poll_and_fault_are_two_steps :
    let s := inPhase .wBusy 1 (device [0x00])
    (tick s).trace.length = 1 ∧ (tick s).busy = true ∧ (tick (tick s)).trace.length = 2 ∧
      (tick (tick s)).busy = false := by decide

theorem test_witness_DataResponseAndBusyPoll :
    let s := inPhase .wResp 1 (device [0xE5])
    s.cfg = Config.standard ∧ s.st = .wResp ∧ (s.env.xfer.nth 0).toNat % 16 = 5 ∧
      ((device [0x0B]).env.xfer.nth 0).toNat % 16 ≠ 5 ∧ (inPhase .wBusy 1 (device [0x00])).st = .wBusy ∧
      (device [0x01]).env.xfer.nth 0 ≠ 0x00 ∧ (device [0x00]).env.xfer.nth 0 = 0x00 ∧
      (inPhase .wBusy 1 s).cnt = 1 ∧ (inPhase .wBusy 65535 s).cnt ≠ 1 := by
  refine ⟨rfl, rfl, by decide, by decide, rfl, by decide, by decide, rfl, by decide⟩

/-- Both results of a write occur (P4, W3), and a flag that stands before it. -/
theorem test_witness_TheResultOfAWrite :
    (stateOf (exec (.write 3 false) (ready .high (ffs 6 ++ [0x04])))).resOk = false ∧
      (stateOf (exec (.write 3 false) (ready .high (ffs 6 ++ [0x00] ++ ffs 515 ++ [0x05])))).resOk = true ∧
      (StatusRecord.defaults.raise .writeTimeout).flag .writeTimeout = true ∧
      FaultFlag.isWriteFault .csdTimeout = false := by decide +kernel

/-- A flag that a new `INIT` clears, and one that a reset clears. -/
theorem test_witness_FlagsStayUntilInitOrReset :
    let s := (ready .high (ffs 10 ++ answer 0x00 [])).setDev
      (DeviceHandle.defaults.withStatus (StatusRecord.defaults.raise .writeTimeout))
    (s.dev.status.flag .writeTimeout = true ∧
      (stateOf (step (starting (.init false) s))).dev.status.flag .writeTimeout = false) ∧
      (stateOf (step { s with inputs := [⟨0, .reset⟩] })).dev.status.flag .writeTimeout = false := by
  decide +kernel

theorem test_witness_step_next :
    step (inPhase .wClean 1 State.reset) = .next (stateOf (step (inPhase .wClean 1 State.reset))) ∧
      (inPhase .wClean 1 State.reset).inputs = [] := ⟨rfl, rfl⟩

theorem test_witness_EveryStepKeepsTheInvariant : Inv (inPhase .wClean 1 (ready .high [])) :=
  ⟨by decide, rfl, by decide, by decide⟩

theorem test_witness_EveryStepKeepsTheBuffersHeld :
    HeldInv (inPhase (.n9CsdData 0) 1 (device [])) ∧ HeldInv (inPhase (.framer .host .poll) 1 (device [])) :=
  ⟨⟨trivial, rfl, by decide⟩, ⟨trivial, rfl, rfl⟩, rfl⟩

/-- The three places where a rule reads a buffer. -/
theorem test_witness_NoRuleReadsAnElementWithoutValue :
    (∃ s : State, HeldInv s ∧ s.cfg = Config.standard ∧ s.st = .judge .n5IfCond ∧ s.answered = true) ∧
      (∃ s : State, HeldInv s ∧ s.cfg = Config.standard ∧ s.st = .judge .n6Ocr ∧ s.answered = true) ∧
      ∃ s : State, HeldInv s ∧ s.cfg = Config.standard ∧ s.st = .n10Decode := by
  refine ⟨⟨{ State.reset with st := .judge .n5IfCond, answered := true, extra := 4, xbuf := [0, 0, 1, 0xAA] },
      ⟨⟨rfl, fun _ => by decide⟩, rfl⟩, rfl, rfl, rfl⟩,
    ⟨{ State.reset with st := .judge .n6Ocr, answered := true, extra := 4, xbuf := [0xC0, 0xFF, 0x80, 0] },
      ⟨⟨rfl, fun _ => by decide⟩, rfl⟩, rfl, rfl, rfl⟩,
    ⟨{ State.reset with st := .n10Decode, csd := ffs 17 }, ⟨trivial, rfl⟩, rfl, rfl⟩⟩

end Sys2Proof.Tests
end

section
/-! SUPPORT. What `exec` and `step` can do, said once: an instruction leaves the state alone, is refused, or starts one
of the three operations and runs it; a step waits, runs on, or lets one input of the host land. -/

namespace Sys2Proof.Machine

section Starts
variable (idx : BitVec 6) (arg : Word32) (extra : Byte) (sector : Word32) (dbg : Bool) (s : State)

@[simp] theorem refuseStart_cfg : (refuseStart s).cfg = s.cfg := rfl
@[simp] theorem refuseStart_trace : (refuseStart s).trace = s.trace := rfl
@[simp] theorem startCmd_cfg : (startCmd idx arg extra dbg s).cfg = s.cfg := rfl
@[simp] theorem startCmd_trace : (startCmd idx arg extra dbg s).trace = s.trace := rfl
@[simp] theorem startInit_cfg : (startInit dbg s).cfg = s.cfg := rfl
@[simp] theorem startInit_trace : (startInit dbg s).trace = s.trace := rfl
@[simp] theorem startWrite_cfg : (startWrite sector dbg s).cfg = s.cfg := rfl
@[simp] theorem startWrite_trace : (startWrite sector dbg s).trace = s.trace := rfl

end Starts

/-- What the instruction `i` makes of a state `s`: a busy block ignores it (R254) and `NOP` does nothing (R89);
otherwise a start is refused (R89, R121), or its operands are latched and the operation runs on (R90). -/
inductive ExecEffect (s : State) : Instr → State → Prop
  | unchanged {i : Instr} (ignored : i = .nop ∨ s.busy = true) : ExecEffect s i s
  | refused {i : Instr} (idle : s.busy = false) (extra : Byte) (tooMany : extraRefused s.cfg extra) :
      ExecEffect s i (refuseStart s)
  | cmd {i : Instr} (idle : s.busy = false) (idx : BitVec 6) (arg : Word32) (extra : Byte) (dbg : Bool)
      (fits : ¬ extraRefused s.cfg extra) : ExecEffect s i (runOn (startCmd idx arg extra dbg s))
  | init (idle : s.busy = false) (dbg : Bool) : ExecEffect s (.init dbg) (runOn (startInit dbg s))
  | write (idle : s.busy = false) (sector : Word32) (dbg : Bool) :
      ExecEffect s (.write sector dbg) (runOn (startWrite sector dbg s))

theorem hostFrame_effect (i : Instr) (idx : BitVec 6) (arg : Word32) (extra : Byte) (dbg : Bool) (s : State) :
    ExecEffect s i (hostFrame idx arg extra dbg s) := by
  unfold hostFrame
  split
  · next busy => exact .unchanged (.inr busy)
  · next hb =>
    have idle : s.busy = false := Bool.eq_false_of_not_eq_true hb
    split
    · next tooMany => exact .refused idle extra tooMany
    · next fits => exact .cmd idle idx arg extra dbg fits

/-- The inversion of `exec`: the wire commands and `CMD` frame one command for the host (`hostFrame_effect`), `INIT` and
`WRITE` run their own operation. -/
theorem exec_effect {i : Instr} {s t : State} (h : exec i s = .next t) : ExecEffect s i t := by
  cases i <;> cases h
  case nop => exact .unchanged (.inl rfl)
  case init dbg =>
    split
    · next busy => exact .unchanged (.inr busy)
    · next hb => exact .init (Bool.eq_false_of_not_eq_true hb) dbg
  case write sector dbg =>
    split
    · next busy => exact .unchanged (.inr busy)
    · next hb => exact .write (Bool.eq_false_of_not_eq_true hb) sector dbg
  all_goals exact hostFrame_effect _ _ _ _ _ s

/-- What an input makes of a state: a reset, a byte of the payload buffer, nothing where a start meets a busy block
(R254), or the instruction that an idle block decodes. -/
theorem hostInput_cases {e : HostEvent} {s t : State} (h : hostInput e s = .next t) :
    (e = .reset ∧ t = resetBlock s) ∨ (∃ i b, e = .poke i b ∧ t = hostPoke s i b) ∨
      (∃ w, e = .start w ∧ s.busy = true ∧ t = s) ∨
      ∃ w i, e = .start w ∧ s.busy = false ∧ decode w = .ok i ∧ exec i s = .next t := by
  cases e with
  | reset => cases h; exact .inl ⟨rfl, rfl⟩
  | poke i b => cases h; exact .inr (.inl ⟨i, b, rfl, rfl⟩)
  | start w =>
    simp only [hostInput, hostStart] at h
    split at h
    · next busy => cases h; exact .inr (.inr (.inl ⟨w, rfl, busy, rfl⟩))
    · next hb =>
      split at h
      · next i hd => exact .inr (.inr (.inr ⟨w, i, rfl, Bool.eq_false_of_not_eq_true hb, hd, h⟩))
      · cases h

/-- What a step makes of the state `s`, the `done` pulse of an earlier step over: an idle block without inputs waits
(R250), an operation that no input has reached runs on, or the next input lands. -/
theorem step_cases {s t : State} (h : step s = .next t) :
    (s.busy = false ∧ s.inputs = [] ∧ t = { s with done := false }) ∨
      (s.busy = true ∧ (∀ a rest, s.inputs = a :: rest → a.after ≠ 0) ∧ t = runOn { s with done := false }) ∨
      ∃ a rest, s.inputs = a :: rest ∧ (s.busy = true → a.after = 0) ∧
        hostInput a.event { s with done := false, inputs := rest } = .next t := by
  unfold step hostStep at h
  split at h
  · next hi =>
    simp only at hi
    split at h
    · next busy => cases h; exact .inr (.inl ⟨busy, by simp [hi], rfl⟩)
    · next hb => cases h; exact .inl ⟨Bool.eq_false_of_not_eq_true hb, hi, rfl⟩
  · next a rest hi =>
    simp only at hi
    split at h
    · next hr =>
      obtain ⟨busy, far⟩ := hr
      cases h
      exact .inr (.inl ⟨busy, by simp [hi, far], rfl⟩)
    · next hl =>
      exact .inr (.inr ⟨a, rest, hi, fun busy => by_contra fun far => hl ⟨busy, far⟩, h⟩)

end Sys2Proof.Machine
end

section
/-! SUPPORT. The configuration is a parameter (R7, R20): neither an instruction nor an input of the host writes it. -/

namespace Sys2Proof.Machine

@[simp] theorem runOn_cfg (s : State) : (runOn s).cfg = s.cfg := (runFor_sameHost (runLength s) s).cfg

theorem exec_cfg {i : Instr} {s t : State} (h : exec i s = .next t) : t.cfg = s.cfg := by
  cases exec_effect h <;> simp

theorem hostInput_cfg {e : HostEvent} {s t : State} (h : hostInput e s = .next t) : t.cfg = s.cfg := by
  obtain ⟨-, rfl⟩ | ⟨i, b, -, rfl⟩ | ⟨w, -, -, rfl⟩ | ⟨w, i, -, -, -, hx⟩ := hostInput_cases h
  · rfl
  · rfl
  · rfl
  · exact exec_cfg hx

end Sys2Proof.Machine
end

section
/-! PROOF. The configuration is constant. -/

namespace Sys2Proof.Machine

/-- Settles O54: a step waits, runs on, or lets an input land, and none of the three writes the configuration. -/
theorem theConfigurationIsConstant : Obligations.TheConfigurationIsConstant := by
  unfold Obligations.TheConfigurationIsConstant
  intro s t h
  obtain ⟨-, -, rfl⟩ | ⟨-, -, rfl⟩ | ⟨a, rest, -, -, hi⟩ := step_cases h
  · rfl
  · exact runOn_cfg _
  · have landed := hostInput_cfg hi
    exact landed

end Sys2Proof.Machine
end

section
/-! SUPPORT. The trace (R8, R67): one step of the block appends at most one event, and so a run keeps the old trace as
a suffix of the new one. -/

namespace Sys2Proof.Machine

/-- R8: from `s` to `t` the block has issued no event or one. -/
def AtMostOneEvent (s t : State) : Prop := t.trace = s.trace ∨ ∃ e, t.trace = e :: s.trace

theorem AtMostOneEvent.of_silent {s t : State} (h : t.trace = s.trace) : AtMostOneEvent s t := .inl h

theorem AtMostOneEvent.of_event {s t : State} {e : Event} (h : t.trace = e :: s.trace) : AtMostOneEvent s t :=
  .inr ⟨e, h⟩

theorem AtMostOneEvent.suffix {s t : State} (h : AtMostOneEvent s t) : s.trace <:+ t.trace := by
  obtain h | ⟨e, h⟩ := h
  · rw [h]
  · rw [h]
    exact List.suffix_cons e s.trace

/-- R225 (3): fault entry issues at most its one `Release()`. -/
theorem takeFault_atMostOneEvent (e : FaultFlag) (s : State) : AtMostOneEvent s (takeFault e s) := by
  cases hr : e.releasesBus with
  | true => exact .of_event (e := .release) (by simp [hr])
  | false => exact .of_silent (by simp [hr])

/-- A failed attempt faults, or goes on to the next attempt without an event of its own. -/
theorem failedAttempt_atMostOneEvent (e : FaultFlag) {again : State → State} (s : State)
    (h : ∀ t, (again t).trace = t.trace) : AtMostOneEvent s (failedAttempt e again s) := by
  unfold failedAttempt
  split
  · exact takeFault_atMostOneEvent e (s.setCnt (s.cnt - 1))
  · exact .of_silent (h _)

@[simp] theorem afterPoll_trace (c : Caller) (s : State) : (afterPoll c s).trace = s.trace := by
  unfold afterPoll framerTail
  split
  · rfl
  · split <;> rfl

theorem framerTick_atMostOneEvent (c : Caller) (p : FPhase) (s : State) : AtMostOneEvent s (framerTick c p s) := by
  cases p with
  | assert => exact .of_event rfl
  | frame i =>
    simp only [framerTick, framerFrame]
    split <;> exact .of_event rfl
  | poll =>
    simp only [framerTick, framerPoll]
    split
    · exact .of_silent (afterPoll_trace c s)
    · split
      · exact .of_event rfl
      · exact .of_event (afterPoll_trace c _)
  | extra i => exact .of_event rfl
  | clean => exact .of_event rfl
  | release => exact .of_event rfl

@[simp] theorem enterOpcond_trace (s : State) : (enterOpcond s).trace = s.trace := by
  unfold enterOpcond
  split <;> rfl

@[simp] theorem judgeLegacy_trace (s : State) : (judgeLegacy s).trace = s.trace := by
  unfold judgeLegacy
  split
  · rfl
  · exact enterOpcond_trace (recordEcho false s)

/-- The judgement of a returned framer call makes no call of its own but the `Release()` of a fault. -/
theorem judge_atMostOneEvent (c : Caller) (s : State) : AtMostOneEvent s (judge c s) := by
  cases c <;> simp only [judge]
  case host => exact .of_silent rfl
  case n4Idle =>
    unfold judgeGoIdle
    split
    · exact .of_silent rfl
    · exact takeFault_atMostOneEvent _ s
  case n5IfCond =>
    unfold judgeIfCond
    split
    · exact .of_silent (enterOpcond_trace _)
    · exact .of_silent (judgeLegacy_trace s)
  case n6OpcondHc =>
    unfold judgeOpcondHc
    split
    · exact .of_silent rfl
    · exact failedAttempt_atMostOneEvent _ s fun _ => rfl
  case n6Ocr =>
    unfold judgeReadOcr
    split
    · exact takeFault_atMostOneEvent _ s
    · split
      · exact takeFault_atMostOneEvent _ s
      · exact .of_silent rfl
  case n7OpcondLegacy =>
    unfold judgeOpcondLegacy
    split
    · exact .of_silent rfl
    · exact failedAttempt_atMostOneEvent _ s fun _ => rfl
  case n9CsdCmd =>
    unfold judgeSendCsd
    split
    · exact .of_silent rfl
    · exact failedAttempt_atMostOneEvent _ s fun _ => rfl
  case n11CrcOnOff => exact .of_silent rfl
  case n11SetBlocklen => exact .of_silent rfl
  case wCmd =>
    unfold judgeWriteCmd
    split
    · exact .of_silent rfl
    · exact takeFault_atMostOneEvent _ s

/-- One step of the block is at most one call to a collaborator. Beside the framer's and the judgements, two steps
sense a line and fault without a `Release()`, three judge the byte of an earlier poll, one decodes the record, and each
of the others is one call. -/
theorem tick_atMostOneEvent (s : State) : AtMostOneEvent s (tick s) := by
  cases h : s.st <;> simp only [tick, h]
  case idle => exact .of_silent rfl
  case framer c p => exact framerTick_atMostOneEvent c p s
  case judge c => exact judge_atMostOneEvent c s
  case n2Present => unfold checkPresent; split <;> exact .of_event rfl
  case n2WriteProt => unfold checkWriteProt; split <;> exact .of_event rfl
  case n9CsdJudge =>
    unfold judgeCsdToken
    split
    · exact .of_silent rfl
    · exact failedAttempt_atMostOneEvent _ s fun _ => rfl
  case n10Decode => exact .of_silent rfl
  case wRespJudge =>
    unfold judgeDataResponse
    split
    · exact .of_silent rfl
    · exact takeFault_atMostOneEvent _ s
  case wBusyJudge =>
    unfold judgeBusy
    split
    · exact .of_silent rfl
    · exact failedAttempt_atMostOneEvent _ s fun _ => rfl
  all_goals exact .of_event rfl

theorem runFor_trace_suffix (k : Nat) (s : State) : s.trace <:+ (runFor k s).trace := by
  induction k generalizing s with
  | zero => exact List.suffix_refl _
  | succ k ih =>
    unfold runFor
    split
    · exact (tick_atMostOneEvent s).suffix.trans (ih (tick s))
    · exact List.suffix_refl _

theorem runOn_trace_suffix (s : State) : s.trace <:+ (runOn s).trace := runFor_trace_suffix (runLength s) s

/-- A start issues no event itself, and the run of the started operation appends to the trace. -/
theorem exec_trace_suffix {i : Instr} {s t : State} (h : exec i s = .next t) : s.trace <:+ t.trace := by
  cases exec_effect h with
  | unchanged => exact List.suffix_refl _
  | refused => simp
  | cmd _ idx arg extra dbg => simpa using runOn_trace_suffix (startCmd idx arg extra dbg s)
  | init _ dbg => simpa using runOn_trace_suffix (startInit dbg s)
  | write _ sector dbg => simpa using runOn_trace_suffix (startWrite sector dbg s)

end Sys2Proof.Machine
end

section
/-! PROOF. The trace only grows. -/

namespace Sys2Proof.Machine

/-- Settles O55: an instruction keeps the old trace as a suffix, and a step of the block issues at most one event. -/
theorem theTraceOnlyGrows : Obligations.TheTraceOnlyGrows := by
  unfold Obligations.TheTraceOnlyGrows
  refine ⟨fun i s t h => ?_, tick_atMostOneEvent⟩
  obtain ⟨l, hl⟩ := exec_trace_suffix h
  exact ⟨l, hl.symm⟩

end Sys2Proof.Machine
end

section
/-! SUPPORT. The payload buffer under instructions and inputs of the host (R31, R65, R263), an input that has landed,
and what the host reads in an idle and in a busy block (R33, R35, R255). -/

namespace Sys2Proof.Machine

section Starts
variable (idx : BitVec 6) (arg : Word32) (extra : Byte) (sector : Word32) (dbg : Bool) (s : State)

@[simp] theorem refuseStart_mem : (refuseStart s).mem = s.mem := rfl
@[simp] theorem startCmd_mem : (startCmd idx arg extra dbg s).mem = s.mem := rfl
@[simp] theorem startInit_mem : (startInit dbg s).mem = s.mem := rfl
@[simp] theorem startWrite_mem : (startWrite sector dbg s).mem = s.mem := rfl

end Starts

@[simp] theorem runOn_mem (s : State) : (runOn s).mem = s.mem := (runFor_sameHost (runLength s) s).mem

/-- A read of the payload buffer sees the buffer alone (R65). -/
theorem memRead_congr {s t : State} (h : t.mem = s.mem) (a : BitVec 9) : memRead t a = memRead s a := by
  unfold memRead
  rw [h]

/-- An instruction leaves the state alone, is refused, or runs an operation, and none of these writes memory. -/
theorem exec_mem {i : Instr} {s t : State} (h : exec i s = .next t) : t.mem = s.mem := by
  cases exec_effect h <;> simp

/-- R263: the byte written reads as written, and every other byte as before. -/
theorem memRead_hostPoke {s : State} (h : Memory.wf s.mem) (i : BitVec 9) (x : Byte) (a : BitVec 9) :
    memRead (hostPoke s i x) a = if a = i then x else memRead s a := by
  unfold memRead hostPoke
  split
  · next same => rw [same, Memory.get_put_self h]
  · next other => rw [Memory.get_put_other x (fun e => other (BitVec.eq_of_toNat_eq e)) h]

/-- An input that has landed takes effect in the very next step, in an idle and in a busy block. -/
theorem step_of_landed {s : State} {e : HostEvent} {rest : List Arrival} (h : s.inputs = ⟨0, e⟩ :: rest) :
    step s = hostInput e { s with done := false, inputs := rest } := by
  simp [step, hostStep, h]

theorem hostRead_idle {s : State} (h : s.st = .idle) (r : HostReg) : hostRead s r = settledRead s r := by
  simp [hostRead, State.busy, h]

theorem hostRead_busy {s : State} (h : s.st ≠ .idle) {r : HostReg} (hb : r ≠ .busy) (hd : r ≠ .done)
    (ha : r ≠ .busAsserted) : hostRead s r = .next (Config.unsettledRead r.number s.trace.length) := by
  simp [hostRead, State.busy, h, hb, hd, ha]

/-- R255: three places are current at any time. -/
theorem hostRead_current (s : State) {r : HostReg} (h : r = .busy ∨ r = .done ∨ r = .busAsserted) :
    hostRead s r = settledRead s r := by
  obtain rfl | rfl | rfl := h <;> simp [hostRead]

theorem bitWord_eq (b : Bool) : bitWord b = if b = true then 1 else 0 := by cases b <;> rfl

end Sys2Proof.Machine
end

section
/-! PROOF. Memory, reset, and what the host reads. -/

namespace Sys2Proof.Machine

/-- Settles O11: the input lands in this step, and `hostPoke` writes the one byte. -/
theorem aHostWriteChangesOneByte : Obligations.AHostWriteChangesOneByte := by
  unfold Obligations.AHostWriteChangesOneByte
  intro s i x rest canonical hin
  refine ⟨hostPoke { s with done := false, inputs := rest } i x, step_of_landed hin, ?_, rfl⟩
  exact memRead_hostPoke (s := { s with done := false, inputs := rest }) canonical i x

/-- Settles O53: whatever an instruction does, no run of the sequencer writes memory. -/
theorem noInstructionWritesMemory : Obligations.NoInstructionWritesMemory := by
  unfold Obligations.NoInstructionWritesMemory
  intro i s t h
  exact ⟨exec_mem h, memRead_congr (exec_mem h)⟩

/-- Settles O9: the reset state evaluates to the values of R34, and a read of a place without value to the fault. -/
theorem resetLeavesTheValuesOfR34 : Obligations.ResetLeavesTheValuesOfR34 := by
  unfold Obligations.ResetLeavesTheValuesOfR34
  exact ⟨rfl, rfl, rfl, rfl, rfl, rfl, rfl, rfl, rfl, rfl, rfl, rfl, rfl, rfl, rfl, fun _ => rfl⟩

/-- Settles O10: the input lands in this step, and `resetBlock` takes nothing from the old state but its
surroundings. -/
theorem aResetInputAbandonsTheOperation : Obligations.AResetInputAbandonsTheOperation := by
  unfold Obligations.AResetInputAbandonsTheOperation
  intro s rest hin
  exact ⟨resetBlock { s with done := false, inputs := rest }, step_of_landed hin, rfl, rfl, rfl, rfl, rfl, rfl, rfl,
    rfl, rfl, rfl, rfl, rfl, rfl, rfl⟩

/-- Settles O12: an idle block shows every place as it stands, a busy one the three current places alone. -/
theorem anIdleBlockShowsItsResults : Obligations.AnIdleBlockShowsItsResults := by
  unfold Obligations.AnIdleBlockShowsItsResults
  refine ⟨fun s => ⟨?_, ?_, ?_⟩, fun s r h hb hd ha => hostRead_busy h hb hd ha, fun s h => ?_⟩
  · rw [hostRead_current s (.inl rfl), settledRead, bitWord_eq]
    simp [State.busy_iff]
  · rw [hostRead_current s (.inr (.inl rfl)), settledRead, bitWord_eq]
  · rw [hostRead_current s (.inr (.inr rfl)), settledRead, bitWord_eq]
  · simp only [hostRead_idle h, settledRead, bitWord_eq, true_and]
    refine ⟨?_, fun i hi => ?_, fun i hi => ?_, fun unframed => ?_, fun framed => ?_⟩
    · cases s.dev.capClass <;> rfl
    · exact ⟨s.xbuf[i], List.getElem?_eq_getElem hi, by simp [readHeld, hi]⟩
    · simp [readHeld, hi]
    · simp [readHeld, State.ifFramed, unframed]
    · simp [readHeld, State.ifFramed, framed]

end Sys2Proof.Machine
end

section
/-! SUPPORT. The induction over steps, once: what a step of the block and each input of the host keep, every step of the
machine keeps. -/

namespace Sys2Proof.Machine

/-- What a run keeps is what each of its steps keeps. -/
theorem runFor_keeps {P : State → Prop} (keeps : ∀ s, s.busy = true → P s → P (tick s)) (k : Nat) {s : State}
    (h : P s) : P (runFor k s) := by
  induction k generalizing s with
  | zero => exact h
  | succ k ih =>
    unfold runFor
    split
    · next busy => exact ih (keeps s busy h)
    · exact h

/-- `P` is an invariant of the machine: the `done` pulse and the inputs to come do not bear on it, a step of the block
keeps it, and so does whatever an input of the host does when it lands. -/
structure StepInvariant (P : State → Prop) : Prop where
  ports : ∀ (s : State) (done : Bool) (inputs : List Arrival), P s → P { s with done := done, inputs := inputs }
  tick : ∀ s, s.busy = true → P s → P (tick s)
  reset : ∀ s, P s → P (resetBlock s)
  poke : ∀ s i b, P s → P (hostPoke s i b)
  refuse : ∀ s, P s → P (refuseStart s)
  cmd : ∀ s idx arg extra dbg, s.st = .idle → P s → P (startCmd idx arg extra dbg s)
  init : ∀ s dbg, s.st = .idle → P s → P (startInit dbg s)
  write : ∀ s sector dbg, s.st = .idle → P s → P (startWrite sector dbg s)

section Package
variable {P : State → Prop} (kept : StepInvariant P) {s t : State}
include kept

theorem StepInvariant.runOn (h : P s) : P (runOn s) :=
  kept.ports _ _ _ (runFor_keeps kept.tick (runLength s) h)

theorem StepInvariant.exec {i : Instr} (h : P s) (he : exec i s = .next t) : P t := by
  cases exec_effect he with
  | unchanged => exact h
  | refused => exact kept.refuse s h
  | cmd idle idx arg extra dbg =>
    exact kept.runOn (kept.cmd s idx arg extra dbg ((State.busy_eq_false_iff s).mp idle) h)
  | init idle dbg => exact kept.runOn (kept.init s dbg ((State.busy_eq_false_iff s).mp idle) h)
  | write idle sector dbg => exact kept.runOn (kept.write s sector dbg ((State.busy_eq_false_iff s).mp idle) h)

theorem StepInvariant.hostInput {e : HostEvent} (h : P s) (hi : hostInput e s = .next t) : P t := by
  obtain ⟨-, rfl⟩ | ⟨i, b, -, rfl⟩ | ⟨w, -, -, rfl⟩ | ⟨w, i, -, -, -, hx⟩ := hostInput_cases hi
  · exact kept.reset s h
  · exact kept.poke s i b h
  · exact h
  · exact kept.exec h hx

theorem StepInvariant.step (h : P s) (hs : step s = .next t) : P t := by
  obtain ⟨-, -, rfl⟩ | ⟨-, -, rfl⟩ | ⟨a, rest, -, -, hi⟩ := step_cases hs
  · exact kept.ports s _ _ h
  · exact kept.runOn (kept.ports s _ _ h)
  · exact kept.hostInput (kept.ports s _ _ h) hi

end Package

end Sys2Proof.Machine
end

section
/-! SUPPORT. What a step of the block can do, said once: what it leaves alone, and what it makes of `bus_asserted`, of
the StatusRecord and of the phase. The invariant and the frames of the operations are derived from this inversion. -/

namespace Sys2Proof.Machine

/-- R29: `bus_asserted` is what the trace says. -/
def BusAgrees (s : State) : Prop := s.busAsserted = busOf s.trace

theorem takeFault_busAgrees {e : FaultFlag} {s : State} (h : BusAgrees s) : BusAgrees (takeFault e s) := by
  unfold BusAgrees at h ⊢
  cases hr : e.releasesBus with
  | true => simp [hr, busOf]
  | false => simp [hr, h]

/-- The callers of steps 11 and 12, after the record has been decoded (R155, R156, R157). -/
def Caller.pastRecord : Caller → Bool
  | .n11CrcOnOff | .n11SetBlocklen => true
  | _ => false

/-- The phases of steps 11 and 12. -/
def Phase.pastRecord : Phase → Bool
  | .framer c _ | .judge c => c.pastRecord
  | .n12Ready => true
  | _ => false

/-- What the steps of an operation leave alone (R35), those of `INIT` on one side (`inInit`), those of `CMD` and `WRITE`
on the other; and they keep `bus_asserted` (R29). For a phase and an update written out, each field follows by the
lemmas of `State`. -/
structure StepFrame (inInit : Bool) (s t : State) : Prop where
  op : t.op = s.op := by simp
  dbg : t.dbg = s.dbg := by simp
  sector : t.sector = s.sector := by simp
  nextAddr : inInit = true → t.nextAddr = s.nextAddr := by simp [Phase.negotiates, Caller.negotiates]
  echo : inInit = false → t.echo = s.echo := by simp [Phase.negotiates, Caller.negotiates]
  csd : inInit = false → t.csd = s.csd := by simp [Phase.negotiates, Caller.negotiates]
  present : inInit = false → t.env.present = s.env.present := by simp [Phase.negotiates, Caller.negotiates]
  writeProt : inInit = false → t.env.writeProt = s.env.writeProt := by simp [Phase.negotiates, Caller.negotiates]
  bus : BusAgrees s → BusAgrees t := by simp +contextual [BusAgrees, busOf]

theorem StepFrame.refl (inInit : Bool) (s : State) : StepFrame inInit s s := {}

theorem StepFrame.trans {inInit : Bool} {s t u : State} (h : StepFrame inInit s t) (k : StepFrame inInit t u) :
    StepFrame inInit s u where
  op := k.op.trans h.op
  dbg := k.dbg.trans h.dbg
  sector := k.sector.trans h.sector
  nextAddr i := (k.nextAddr i).trans (h.nextAddr i)
  echo i := (k.echo i).trans (h.echo i)
  csd i := (k.csd i).trans (h.csd i)
  present i := (k.present i).trans (h.present i)
  writeProt i := (k.writeProt i).trans (h.writeProt i)
  bus agrees := k.bus (h.bus agrees)

/-- A fault writes `next_addr` in `WRITE` only (R225 (4)). -/
theorem takeFault_stepFrame {e : FaultFlag} {s : State} {inInit : Bool} (kind : inInit = !e.isWriteFault) :
    StepFrame inInit s (takeFault e s) where
  nextAddr i := by
    have notWrite : e.isWriteFault = false := by simpa [i] using kind
    simp [notWrite]
  bus := takeFault_busAgrees

/-- What a step of the block from phase `p` does: the operation goes on without a flag written (R26: at most the
diagnostic counter), `CMD` or `WRITE` returns, a fault of the operation in progress is taken (R225), `INIT` stops at
step 5 (R146), or it gets ready (R158). A record is held past step 10 only where one was held before (R28). -/
inductive TickEffect (p : Phase) (s : State) : State → Prop
  | goesOn {t : State} (frame : StepFrame p.negotiates s t := by exact {}) (busy : t.busy = true := by rfl)
      (family : t.st.negotiates = p.negotiates := by rfl)
      (status : ∃ c, t.dev.status = s.dev.status.withTimeoutCount c := by exact ⟨_, rfl⟩)
      (record : t.st.pastRecord = true → t.csd = [] ∨ p.pastRecord = true ∧ t.csd = s.csd := by
        simp [Phase.pastRecord, Caller.pastRecord]) : TickEffect p s t
  | returns {t : State} (frame : StepFrame p.negotiates s t := by exact {}) (idle : t.st = .idle := by rfl)
      (done : t.done = true := by rfl) (family : p.negotiates = false := by rfl)
      (status : t.dev.status = s.dev.status := by rfl) : TickEffect p s t
  | faults (e : FaultFlag) {u : State} (frame : StepFrame p.negotiates s u := by exact {})
      (family : p.negotiates = !e.isWriteFault := by rfl) (dev : u.dev = s.dev := by rfl) :
      TickEffect p s (takeFault e u)
  | stops (policy : s.cfg.v1Policy = .stop) {u : State} (frame : StepFrame p.negotiates s u := by exact {})
      (family : p.negotiates = true := by rfl) (status : u.dev.status = s.dev.status := by rfl) :
      TickEffect p s (returnInit u)
  | ready (phase : p = .n12Ready) : TickEffect p s (markReady s)

theorem TickEffect.frame {p : Phase} {s t : State} (h : TickEffect p s t) : StepFrame p.negotiates s t := by
  cases h with
  | goesOn frame => exact frame
  | returns frame => exact frame
  | faults e frame family => exact frame.trans (takeFault_stepFrame family)
  | stops _ frame => exact frame.trans {}
  | ready phase =>
    subst phase
    unfold markReady
    exact {}

/-- A step that ends an operation pulses `done` (R30). -/
theorem TickEffect.done {p : Phase} {s t : State} (h : TickEffect p s t) (idle : t.st = .idle) : t.done = true := by
  cases h with
  | goesOn _ busy => simp [State.busy, idle] at busy
  | returns _ _ done => exact done
  | faults => rfl
  | stops => rfl
  | ready => rfl

/-- No step leads from `CMD` or `WRITE` into `INIT`. -/
theorem TickEffect.family {p : Phase} {s t : State} (h : TickEffect p s t) (other : p.negotiates = false) :
    t.st.negotiates = false := by
  cases h with
  | goesOn _ _ family => exact family.trans other
  | returns _ idle => rw [idle]; rfl
  | faults => rfl
  | stops => rfl
  | ready => rfl

/-- What a step of the framer of `c` does (R21, R123): it leaves `dev` alone, goes on or returns to `c`, and is in the
frame of either kind of operation. -/
structure FramerStep (c : Caller) (inInit : Bool) (s t : State) : Prop extends StepFrame inInit s t where
  dev : t.dev = s.dev := by simp
  st : t.st = .judge c ∨ ∃ q, t.st = .framer c q := by simp

theorem afterPoll_step (c : Caller) (inInit : Bool) (s : State) : FramerStep c inInit s (afterPoll c s) := by
  unfold afterPoll framerTail
  split
  · exact {}
  · split <;> exact {}

theorem framerTick_step {c : Caller} {p : FPhase} (inInit : Bool) {s : State} (h : s.st = .framer c p) :
    FramerStep c inInit s (framerTick c p s) := by
  cases p <;> simp only [framerTick, framerAssert, framerExtra, framerClean, framerRelease]
  case frame i =>
    unfold framerFrame beginPoll
    split <;> exact {}
  case poll =>
    unfold framerPoll
    split
    · exact afterPoll_step c inInit s
    · split
      · exact { st := .inr ⟨.poll, h⟩ }
      · have polled : StepFrame inInit s (((s.xfer s.cfg.filler).setN (s.n + 1)).setToken s.inByte true) := {}
        have rest := afterPoll_step c inInit (((s.xfer s.cfg.filler).setN (s.n + 1)).setToken s.inByte true)
        exact ⟨polled.trans rest.toStepFrame, rest.dev, rest.st⟩
  case extra i =>
    unfold extraPhase
    split <;> exact {}
  all_goals exact {}

theorem framerTick_effect {c : Caller} {p : FPhase} {s : State} (h : s.st = .framer c p) :
    TickEffect (.framer c p) s (framerTick c p s) := by
  obtain ⟨frame, dev, st⟩ := framerTick_step c.negotiates h
  have csd : (framerTick c p s).csd = s.csd := (framerTick_step false h).csd rfl
  have status : ∃ n, (framerTick c p s).dev.status = s.dev.status.withTimeoutCount n :=
    ⟨s.dev.status.timeoutCount, by rw [dev]; rfl⟩
  have phase : (framerTick c p s).busy = true ∧ (framerTick c p s).st.negotiates = c.negotiates ∧
      (framerTick c p s).st.pastRecord = c.pastRecord := by
    obtain st | ⟨q, st⟩ := st <;> simp [State.busy, st, Phase.negotiates, Phase.pastRecord]
  obtain ⟨busy, family, past⟩ := phase
  exact .goesOn frame busy family status fun k => .inr ⟨past.symm.trans k, csd⟩

/-- The last failed attempt takes the fault, an earlier one goes on as `next` says. -/
theorem failedAttempt_effect {p : Phase} {s : State} (e : FaultFlag) {again : State → State}
    (next : ∀ n, TickEffect p s (again (s.setCnt n))) (family : p.negotiates = !e.isWriteFault := by rfl) :
    TickEffect p s (failedAttempt e again s) := by
  unfold failedAttempt
  split
  · exact .faults e {} family
  · exact next _

theorem enterOpcond_effect (s : State) (e : Bool) :
    TickEffect (.judge .n5IfCond) s (enterOpcond (recordEcho e s)) := by
  unfold enterOpcond recordEcho
  split
  · unfold enterOpcondHc
    exact .goesOn
  · unfold enterOpcondLegacy
    exact .goesOn

theorem judge_effect (c : Caller) (s : State) : TickEffect (.judge c) s (judge c s) := by
  cases c <;> simp only [judge, enterSetBlocklen]
  case host => exact .returns
  case n4Idle =>
    unfold judgeGoIdle enterIfCond
    split
    · exact .goesOn
    · exact .faults .idleFailed
  case n5IfCond =>
    unfold judgeIfCond judgeEcho judgeLegacy
    split
    · exact enterOpcond_effect s _
    · split
      · next policy =>
        unfold recordEcho
        exact .stops policy
      · exact enterOpcond_effect s false
  case n6OpcondHc =>
    unfold judgeOpcondHc enterReadOcr
    split
    · exact .goesOn
    · exact failedAttempt_effect .opcondTimeout fun n => by unfold enterOpcondHc; exact .goesOn
  case n6Ocr =>
    unfold judgeReadOcr
    split
    · exact .faults .ocrTimeout
    · split
      · exact .faults .powerupNotConfirmed
      · exact .goesOn
  case n7OpcondLegacy =>
    unfold judgeOpcondLegacy
    split
    · exact .goesOn
    · exact failedAttempt_effect .opcondTimeout fun n => by unfold enterOpcondLegacy; exact .goesOn
  case n9CsdCmd =>
    unfold judgeSendCsd
    split
    · exact .goesOn
    · exact failedAttempt_effect .csdTimeout fun n => .goesOn
  case wCmd =>
    unfold judgeWriteCmd
    split
    · exact .goesOn
    · exact .faults .writeCmdRejected
  all_goals exact .goesOn

/-- The inversion of a step of a busy block: beside the framer, the judgements and step 12, a step senses a line, judges
the byte of a poll, ends `WRITE`, or goes on. -/
theorem tick_effect {s : State} (busy : s.busy = true) : TickEffect s.st s (tick s) := by
  cases h : s.st <;>
    simp only [tick, h, enterGoIdle, enterSendCsd, pollCsdToken, decodeRecord, storeCapacity, enterCrcOnOff,
      readDataResponse, pollBusy, sendCleanup]
  case idle => simp [State.busy, h] at busy
  case framer c p => exact framerTick_effect h
  case judge c => exact judge_effect c s
  case n2Present =>
    unfold checkPresent
    split
    · exact .goesOn
    · exact .faults .noCard
  case n2WriteProt =>
    unfold checkWriteProt
    split
    · exact .faults .writeProtected
    · exact .goesOn
  case n3Rate | n3Prime =>
    unfold primePhase
    split <;> exact .goesOn
  case n9CsdJudge =>
    unfold judgeCsdToken csdPhase
    split
    · split <;> exact .goesOn
    · exact failedAttempt_effect .csdTokenMissing fun n => .goesOn
  case n9CsdData =>
    unfold readCsdByte csdPhase
    split <;> exact .goesOn
  case n12Ready => exact .ready rfl
  case wToken =>
    unfold sendToken dataPhase
    split <;> exact .goesOn
  case wData =>
    unfold sendPayload dataPhase
    split <;> exact .goesOn
  case wCheck =>
    unfold sendCheck
    split <;> exact .goesOn
  case wRespJudge =>
    unfold judgeDataResponse
    split
    · exact .goesOn
    · exact .faults .writeDataRejected
  case wBusyJudge =>
    unfold judgeBusy
    split
    · exact .goesOn
    · exact failedAttempt_effect .writeTimeout fun n => .goesOn
  case wRelease =>
    unfold releaseWrite
    exact .returns
  all_goals exact .goesOn

end Sys2Proof.Machine
end

section
/-! SUPPORT. The StatusRecord along an operation (R25, R224), and the invariant of the machine. -/

namespace Sys2Proof.Machine

/-- No flag of the record is set, as at the start of `INIT` (R141); the diagnostic counter is no flag. -/
def StatusRecord.Unset (r : StatusRecord) : Prop := r.fatalCount = 0 ∧ r.ok = false ∧ r.noWriteFlag

/-- A fault of `INIT` sets one of bits 0 to 7, where none stood, and neither `ok` nor a flag of `WRITE`. -/
theorem faultStatus_of_init {r : StatusRecord} {e : FaultFlag} (he : e.isWriteFault = false) (h : r.Unset) :
    (faultStatus e r).fatalCount = 1 ∧ (faultStatus e r).ok = false ∧ (faultStatus e r).noWriteFlag := by
  obtain ⟨fatal, ok, write⟩ := h
  refine ⟨?_, by simp [faultStatus, ok], ?_⟩
  · simp only [StatusRecord.fatalCount, Nat.add_eq_zero_iff, Bool.toNat_eq_zero] at fatal
    cases e <;> simp_all [StatusRecord.fatalCount, StatusRecord.raise, faultStatus, StatusRecord.withTimeoutCount,
      FaultFlag.isWriteFault]
  · cases e <;> simp_all [StatusRecord.noWriteFlag, StatusRecord.raise, faultStatus, StatusRecord.withTimeoutCount,
      FaultFlag.isWriteFault]

/-- A fault of `WRITE` sets none of bits 0 to 7. -/
theorem faultStatus_of_write {r : StatusRecord} {e : FaultFlag} (he : e.isWriteFault = true) :
    (faultStatus e r).fatalCount = r.fatalCount ∧ (faultStatus e r).ok = r.ok := by
  refine ⟨?_, by simp [faultStatus]⟩
  cases e <;> simp [FaultFlag.isWriteFault] at he <;> rfl

theorem statusInv_iff_of_running {s : State} (h : s.st.negotiates = true) : StatusInv s ↔ s.dev.status.Unset := by
  unfold StatusInv
  rw [if_pos h]
  rfl

theorem statusInv_iff_of_other {s : State} (h : s.st.negotiates = false) :
    StatusInv s ↔ s.dev.status.fatalCount ≤ 1 ∧ (s.dev.status.ok = true → s.dev.status.fatalCount = 0) := by
  unfold StatusInv
  rw [if_neg (by simp [h])]

theorem StatusInv.congr {s t : State} (family : t.st.negotiates = s.st.negotiates)
    (status : t.dev.status = s.dev.status) (h : StatusInv s) : StatusInv t := by
  unfold StatusInv at h ⊢
  rw [family, status]
  exact h

theorem TickEffect.statusInv {s t : State} (effect : TickEffect s.st s t) (h : StatusInv s) : StatusInv t := by
  cases effect with
  | goesOn _ _ family status =>
    obtain ⟨c, hc⟩ := status
    unfold StatusInv at h ⊢
    rw [family, hc]
    exact h
  | returns _ idle _ family status => exact h.congr (by rw [family, idle]; rfl) status
  | faults e _ family dev =>
    rw [statusInv_iff_of_other rfl, takeFault_dev, dev, DeviceHandle.withStatus_status]
    cases he : e.isWriteFault with
    | false =>
      rw [he] at family
      obtain ⟨fatal, ok, -⟩ := faultStatus_of_init he ((statusInv_iff_of_running family).mp h)
      simp [fatal, ok]
    | true =>
      rw [he] at family
      obtain ⟨fatal, ok⟩ := faultStatus_of_write (r := s.dev.status) he
      rw [fatal, ok]
      exact (statusInv_iff_of_other family).mp h
  | stops _ _ family status =>
    obtain ⟨fatal, ok, -⟩ := (statusInv_iff_of_running family).mp h
    rw [statusInv_iff_of_other rfl]
    simp [status, fatal]
  | ready phase =>
    obtain ⟨fatal, -, -⟩ := (statusInv_iff_of_running (by rw [phase]; rfl)).mp h
    rw [statusInv_iff_of_other rfl]
    simp [markReady, fatal]

theorem tick_inv {s : State} (busy : s.busy = true) (h : Inv s) : Inv (tick s) where
  memory := by rw [(tick_sameHost s).mem]; exact h.memory
  bus := (tick_effect busy).frame.bus h.bus
  status := (tick_effect busy).statusInv h.status

/-- `CMD` and `WRITE` start with the status record as it stands, `INIT` with its defaults. -/
theorem inv_kept : StepInvariant Inv where
  ports _ _ _ h := ⟨h.memory, h.bus, h.status⟩
  tick _ := tick_inv
  reset _ h := ⟨h.memory, rfl, (statusInv_iff_of_other rfl).mpr ⟨Nat.zero_le 1, fun _ => rfl⟩⟩
  poke _ i b h := ⟨Memory.put_wf h.memory i.isLt b, h.bus, h.status⟩
  refuse _ h := ⟨h.memory, h.bus, h.status⟩
  cmd s _ _ _ _ idle h := ⟨h.memory, h.bus, StatusInv.congr (s := s) (by rw [idle]; rfl) rfl h.status⟩
  init _ _ _ h := ⟨h.memory, h.bus, (statusInv_iff_of_running rfl).mpr ⟨rfl, rfl, rfl, rfl, rfl⟩⟩
  write s _ _ idle h := ⟨h.memory, h.bus, StatusInv.congr (s := s) (by rw [idle]; rfl) rfl h.status⟩

end Sys2Proof.Machine
end

section
/-! PROOF. The invariant of the machine. -/

namespace Sys2Proof.Machine

/-- Settles O58: the invariant is one that every step of the block and every input of the host keep. -/
theorem everyStepKeepsTheInvariant : Obligations.EveryStepKeepsTheInvariant := by
  unfold Obligations.EveryStepKeepsTheInvariant
  intro s t h hs
  exact inv_kept.step h hs

/-- Settles O57: at reset no flag is set, the trace is empty and the buffers hold nothing. -/
theorem theInvariantsHoldAtReset : Obligations.TheInvariantsHoldAtReset := by
  unfold Obligations.TheInvariantsHoldAtReset
  have status : StatusInv State.reset := (statusInv_iff_of_other rfl).mpr ⟨Nat.zero_le 1, fun _ => rfl⟩
  exact ⟨⟨Memory.wf_nil, rfl, status⟩, ⟨trivial, rfl⟩⟩

end Sys2Proof.Machine
end

section
/-! SUPPORT. What the buffers hold (R27, R28, R33) along an operation. -/

namespace Sys2Proof.Machine

theorem callerExtra_congr {s t : State} (extra : t.extra = s.extra) (cfg : t.cfg = s.cfg) (c : Caller) :
    callerExtra t c ↔ callerExtra s c := by
  cases c <;> simp [callerExtra, extra, cfg]

theorem xbufHeld_congr {s t : State} (answered : t.answered = s.answered) (xbuf : t.xbuf = s.xbuf)
    (extra : t.extra = s.extra) (cfg : t.cfg = s.cfg) (p : Phase) : xbufHeld t p ↔ xbufHeld s p := by
  cases p with
  | framer c q =>
    have extras : extrasHeld t q ↔ extrasHeld s q := by cases q <;> simp [extrasHeld, answered, xbuf, extra]
    exact and_congr (callerExtra_congr extra cfg c) extras
  | judge c => exact and_congr (callerExtra_congr extra cfg c) (by rw [answered, xbuf, extra])
  | _ => rfl

theorem csdHeld_congr {s t : State} (csd : t.csd = s.csd) (cfg : t.cfg = s.cfg) (p : Phase) :
    csdHeld t p ↔ csdHeld s p := by
  cases p <;> simp [csdHeld, csd, cfg]

/-- The invariant reads the phase, the token, `extra` and the buffers. -/
theorem HeldInv.congr {s t : State} (h : HeldInv s) (st : t.st = s.st) (answered : t.answered = s.answered)
    (xbuf : t.xbuf = s.xbuf) (extra : t.extra = s.extra) (csd : t.csd = s.csd) (cfg : t.cfg = s.cfg) : HeldInv t where
  xbuf := by
    rw [st, xbufHeld_congr answered xbuf extra cfg]
    exact h.xbuf
  csd := by
    rw [st, csdHeld_congr csd cfg]
    exact h.csd

section Framer
variable {c : Caller} {s t : State} (asked : callerExtra s c) (record : s.csd = [])
include asked record

/-- The framer of `c` goes on, its operands and the record as before. -/
theorem HeldInv.of_framer {q : FPhase} (st : t.st = .framer c q) (extras : extrasHeld t q)
    (extra : t.extra = s.extra := by rfl) (cfg : t.cfg = s.cfg := by rfl) (csd : t.csd = s.csd := by rfl) :
    HeldInv t where
  xbuf := by
    rw [st]
    exact ⟨(callerExtra_congr extra cfg c).mpr asked, extras⟩
  csd := by
    rw [st]
    exact csd.trans record

/-- The framer has returned to `c`. -/
theorem HeldInv.of_judge (st : t.st = .judge c) (filled : t.answered = true → t.xbuf.length = extraCount t.extra)
    (extra : t.extra = s.extra := by rfl) (cfg : t.cfg = s.cfg := by rfl) (csd : t.csd = s.csd := by rfl) :
    HeldInv t where
  xbuf := by
    rw [st]
    exact ⟨(callerExtra_congr extra cfg c).mpr asked, filled⟩
  csd := by
    rw [st]
    exact csd.trans record

/-- R115: extra bytes only after an answered token. -/
theorem afterPoll_held (empty : s.xbuf = []) : HeldInv (afterPoll c s) := by
  unfold afterPoll framerTail
  split
  · next more =>
    obtain ⟨answered, positive⟩ := more
    exact .of_framer asked record rfl ⟨answered, by simp [empty], positive⟩
  · next noExtra =>
    have filled (answered : s.answered = true) : s.xbuf.length = extraCount s.extra := by
      have zero := Nat.eq_zero_of_not_pos fun positive => noExtra ⟨answered, positive⟩
      rw [empty, zero, List.length_nil]
    split
    · exact .of_judge asked record rfl filled
    · exact .of_framer asked record rfl filled

theorem framerExtra_held {i : Nat} (answered : s.answered = true) (length : s.xbuf.length = i)
    (more : i < extraCount s.extra) : HeldInv (framerExtra c i s) := by
  have length' : (s.xbuf ++ [s.inByte]).length = i + 1 := by simp [length]
  unfold framerExtra extraPhase
  split
  · next more' => exact .of_framer asked record rfl ⟨answered, length', more'⟩
  · next last => exact .of_framer asked record rfl fun _ => length'.trans (Nat.le_antisymm more (Nat.not_lt.mp last))

end Framer

theorem framerTick_held {c : Caller} {p : FPhase} {s : State} (st : s.st = .framer c p) (h : HeldInv s) :
    HeldInv (framerTick c p s) := by
  obtain ⟨xbuf, record⟩ := h
  rw [st] at xbuf record
  obtain ⟨asked, extras⟩ := xbuf
  cases p with
  | assert => exact .of_framer asked record rfl trivial
  | frame i =>
    simp only [framerTick, framerFrame]
    split
    · exact .of_framer asked record rfl ⟨rfl, rfl⟩
    · exact .of_framer asked record rfl trivial
  | poll =>
    obtain ⟨silent, empty⟩ := extras
    simp only [framerTick, framerPoll]
    split
    · exact afterPoll_held asked record empty
    · split
      · exact .of_framer asked record st ⟨silent, empty⟩
      · exact afterPoll_held ((callerExtra_congr rfl rfl c).mpr asked) record empty
  | extra i =>
    obtain ⟨answered, length, more⟩ := extras
    exact framerExtra_held asked record answered length more
  | clean => exact .of_framer asked record rfl extras
  | release => exact .of_judge asked record rfl extras

theorem failedAttempt_held {e : FaultFlag} {again : State → State} {s : State} (record : s.csd = [])
    (next : ∀ t, t.csd = [] → HeldInv (again t)) : HeldInv (failedAttempt e again s) := by
  unfold failedAttempt
  split
  · exact ⟨trivial, record⟩
  · exact next _ record

theorem enterOpcond_held {s : State} (record : s.csd = []) : HeldInv (enterOpcond s) := by
  unfold enterOpcond
  split <;> exact ⟨⟨trivial, trivial⟩, record⟩

/-- No judgement reads or writes the record, and a framer call that it makes asks for the extra bytes of its step. -/
theorem judge_held (c : Caller) {s : State} (record : s.csd = []) : HeldInv (judge c s) := by
  cases c <;> simp only [judge]
  case host => exact ⟨trivial, record⟩
  case n4Idle =>
    unfold judgeGoIdle
    split
    · exact ⟨⟨rfl, trivial⟩, record⟩
    · exact ⟨trivial, record⟩
  case n5IfCond =>
    unfold judgeIfCond judgeLegacy
    split
    · exact enterOpcond_held record
    · split
      · exact ⟨trivial, record⟩
      · exact enterOpcond_held record
  case n6OpcondHc =>
    unfold judgeOpcondHc
    split
    · exact ⟨⟨rfl, trivial⟩, record⟩
    · exact failedAttempt_held record fun t k => ⟨⟨trivial, trivial⟩, k⟩
  case n6Ocr =>
    unfold judgeReadOcr
    split
    · exact ⟨trivial, record⟩
    · split <;> exact ⟨trivial, record⟩
  case n7OpcondLegacy =>
    unfold judgeOpcondLegacy
    split
    · exact ⟨trivial, record⟩
    · exact failedAttempt_held record fun t k => ⟨⟨trivial, trivial⟩, k⟩
  case n9CsdCmd =>
    unfold judgeSendCsd
    split
    · exact ⟨trivial, record⟩
    · exact failedAttempt_held record fun t k => ⟨trivial, k⟩
  case n11CrcOnOff => exact ⟨⟨trivial, trivial⟩, record⟩
  case n11SetBlocklen => exact ⟨trivial, record⟩
  case wCmd =>
    unfold judgeWriteCmd
    split <;> exact ⟨trivial, record⟩

/-- R154: the record holds the bytes received so far, or it is complete. -/
theorem csdPhase_held {s : State} (fits : s.csd.length ≤ s.cfg.csdLen) :
    HeldInv (s.goto (csdPhase s.cfg s.csd.length)) := by
  unfold csdPhase
  split
  · next more => exact ⟨trivial, rfl, more⟩
  · next last => exact ⟨trivial, Nat.le_antisymm fits (Nat.not_lt.mp last)⟩

theorem tick_held {s : State} (h : HeldInv s) : HeldInv (tick s) := by
  have record := h.csd
  cases st : s.st <;> simp only [tick, st] <;> rw [st] at record
  case idle => exact h
  case framer c p => exact framerTick_held st h
  case judge c => exact judge_held c record
  case n2Present =>
    unfold checkPresent
    split <;> exact ⟨trivial, record⟩
  case n2WriteProt =>
    unfold checkWriteProt
    split <;> exact ⟨trivial, record⟩
  case n3Rate | n3Prime =>
    unfold primePhase
    split <;> exact ⟨trivial, record⟩
  case n3Assert | n8Assert | n9Reassert => exact ⟨⟨trivial, trivial⟩, record⟩
  case n9CsdJudge =>
    unfold judgeCsdToken
    split
    · exact csdPhase_held (s := (s.setTimeoutCount s.cnt).setCsd []) (Nat.zero_le _)
    · exact failedAttempt_held record fun t k => ⟨trivial, k⟩
  case n9CsdData i =>
    obtain ⟨length, more⟩ := record
    have length' : (s.csd ++ [s.inByte]).length = i + 1 := by simp [length]
    have held := csdPhase_held (s := (s.xfer s.cfg.filler).setCsd (s.csd ++ [s.inByte])) (length'.trans_le more)
    rwa [State.setCsd_csd, length'] at held
  case n10Decode => exact ⟨⟨trivial, trivial⟩, rfl⟩
  case wToken =>
    unfold sendToken dataPhase
    split <;> exact ⟨trivial, record⟩
  case wData =>
    unfold sendPayload dataPhase
    split <;> exact ⟨trivial, record⟩
  case wCheck =>
    unfold sendCheck
    split <;> exact ⟨trivial, record⟩
  case wRespJudge =>
    unfold judgeDataResponse
    split <;> exact ⟨trivial, record⟩
  case wBusyJudge =>
    unfold judgeBusy
    split
    · exact ⟨trivial, record⟩
    · exact failedAttempt_held record fun t k => ⟨trivial, k⟩
  all_goals exact ⟨trivial, record⟩

/-- R28: an idle block holds no record. -/
theorem HeldInv.csd_of_idle {s : State} (h : HeldInv s) (idle : s.st = .idle) : s.csd = [] := by
  have record := h.csd
  rwa [idle] at record

theorem heldInv_kept : StepInvariant HeldInv where
  ports _ _ _ h := h.congr rfl rfl rfl rfl rfl rfl
  tick _ _ := tick_held
  reset _ _ := ⟨trivial, rfl⟩
  poke _ _ _ h := h.congr rfl rfl rfl rfl rfl rfl
  refuse _ h := h.congr rfl rfl rfl rfl rfl rfl
  cmd _ _ _ _ _ idle h := ⟨⟨trivial, trivial⟩, h.csd_of_idle idle⟩
  init _ _ idle h := ⟨trivial, h.csd_of_idle idle⟩
  write _ _ _ idle h := ⟨⟨trivial, trivial⟩, h.csd_of_idle idle⟩

/-- With the standard configuration, steps 5 and 6 judge an answered command with all four extra bytes received. -/
theorem HeldInv.four_extras {c : Caller} {s : State} (h : HeldInv s) (standard : s.cfg = Config.standard)
    (st : s.st = .judge c) (asks : callerExtra s c → s.extra = s.cfg.respExtra) (answered : s.answered = true) :
    s.xbuf.length = 4 := by
  have held := h.xbuf
  rw [st] at held
  obtain ⟨asked, filled⟩ := held
  rw [filled answered, asks asked, standard]
  rfl

/-- With the standard configuration, step 10 decodes a complete record. -/
theorem HeldInv.full_record {s : State} (h : HeldInv s) (standard : s.cfg = Config.standard)
    (st : s.st = .n10Decode) : s.csd.length = 17 := by
  have complete := h.csd
  rw [st] at complete
  rw [complete, standard]
  rfl

theorem heldAt_of_lt {buf : List Byte} {k : Nat} (h : k < buf.length) : heldAt buf k = buf[k] := by
  simp [heldAt, h]

end Sys2Proof.Machine
end

section
/-! PROOF. What the buffers hold. -/

namespace Sys2Proof.Machine

/-- Settles O59: as O58, for the buffers. -/
theorem everyStepKeepsTheBuffersHeld : Obligations.EveryStepKeepsTheBuffersHeld := by
  unfold Obligations.EveryStepKeepsTheBuffersHeld
  intro s t h hs
  exact heldInv_kept.step h hs

/-- Settles O60: four extra bytes at the judgements of steps 5 and 6, seventeen record bytes at step 10. -/
theorem noRuleReadsAnElementWithoutValue : Obligations.NoRuleReadsAnElementWithoutValue := by
  unfold Obligations.NoRuleReadsAnElementWithoutValue
  intro s held standard
  refine ⟨fun st answered => ?_, fun st answered => ?_, fun st k hk => ?_⟩
  · have four := held.four_extras standard st id answered
    omega
  · have four := held.four_extras standard st id answered
    omega
  · have full := held.full_record standard st
    have inRange : k < s.csd.length := by omega
    exact ⟨s.csd[k], List.getElem?_eq_getElem inRange, heldAt_of_lt inRange⟩

end Sys2Proof.Machine
end

section
/-! SUPPORT. `INIT` and `WRITE` from rest: the run from the start to the return, and what holds along it. -/

namespace Sys2Proof.Machine

theorem runToReturn_keeps {P : State → Prop} (keeps : ∀ s, s.busy = true → P s → P (tick s)) {s : State} (h : P s) :
    P (runToReturn s) :=
  runFor_keeps keeps _ h

theorem runToReturn_st (s : State) : (runToReturn s).st = .idle :=
  (State.busy_eq_false_iff _).mp (runToReturn_busy s)

/-- From rest, `INIT` runs to its return. -/
theorem init_of_rest {s t : State} {dbg : Bool} (rest : s.AtRest) (h : exec (.init dbg) s = .next t) :
    t = runToReturn (startInit dbg s) := by
  cases h
  rw [if_neg (by simp [State.busy, rest.idle])]
  exact runOn_undisturbed rest.undisturbed

/-- From rest, `WRITE` runs to its return. -/
theorem write_of_rest {s t : State} {sector : Word32} {dbg : Bool} (rest : s.AtRest)
    (h : exec (.write sector dbg) s = .next t) : t = runToReturn (startWrite sector dbg s) := by
  cases h
  rw [if_neg (by simp [State.busy, rest.idle])]
  exact runOn_undisturbed rest.undisturbed

/-- What `INIT` leaves at its return (R25, R158, R224): it is ready and the record is decoded (R28), one flag says why
it is not, or `V1_POLICY = stop` ended it at step 5 (R146). -/
structure InitReturned (s : State) : Prop where
  idle : s.st = .idle
  done : s.done = true
  resOk : s.resOk = s.dev.status.ok
  noWriteFlag : s.dev.status.noWriteFlag
  outcome : (s.dev.status.ok = true ∧ s.dev.status.fatalCount = 0 ∧ s.csd = []) ∨
    (s.dev.status.ok = false ∧ s.dev.status.fatalCount = 1) ∨
    (s.dev.status.ok = false ∧ s.dev.status.fatalCount = 0 ∧ s.cfg.v1Policy = .stop)

/-- `INIT` while it runs: no flag is set yet, and no record is held past step 10. -/
structure InitRunning (s : State) : Prop where
  family : s.st.negotiates = true
  unset : s.dev.status.Unset
  record : s.st.pastRecord = true → s.csd = []

/-- `INIT` while it runs and at its return. -/
def DuringInit (s : State) : Prop := InitRunning s ∨ InitReturned s

theorem TickEffect.duringInit {s t : State} (effect : TickEffect s.st s t) (cfg : t.cfg = s.cfg)
    (running : InitRunning s) : DuringInit t := by
  obtain ⟨family, ⟨fatal, ok, write⟩, record⟩ := running
  cases effect with
  | goesOn _ _ family' status record' =>
    obtain ⟨n, hn⟩ := status
    refine .inl ⟨family'.trans family, ?_, fun past => ?_⟩
    · rw [hn]
      exact ⟨fatal, ok, write⟩
    · obtain gone | ⟨past', same⟩ := record' past
      · exact gone
      · exact same.trans (record past')
  | returns _ _ _ other => simp [family] at other
  | faults e _ kind dev =>
    obtain ⟨one, ok', write'⟩ := faultStatus_of_init (e := e) (by simpa [family] using kind) ⟨fatal, ok, write⟩
    rw [← dev] at one ok' write'
    exact .inr ⟨rfl, rfl, ok'.symm, write', .inr (.inl ⟨ok', one⟩)⟩
  | stops policy _ _ status =>
    rw [← status] at fatal ok write
    exact .inr ⟨rfl, rfl, rfl, write, .inr (.inr ⟨ok, fatal, cfg ▸ policy⟩)⟩
  | ready phase => exact .inr ⟨rfl, rfl, rfl, write, .inl ⟨rfl, fatal, record (by rw [phase]; rfl)⟩⟩

/-- A step of `INIT`, from a state that `s` has led to. -/
theorem tick_duringInit {s u : State} (busy : u.busy = true) (h : DuringInit u ∧ StepFrame true s u) :
    DuringInit (tick u) ∧ StepFrame true s (tick u) := by
  obtain ⟨running | returned, frame⟩ := h
  · have effect := tick_effect busy
    have frame' := effect.frame
    rw [running.family] at frame'
    exact ⟨effect.duringInit (tick_sameHost u).cfg running, frame.trans frame'⟩
  · simp [State.busy, returned.idle] at busy

theorem startInit_duringInit (dbg : Bool) (s : State) : DuringInit (startInit dbg s) :=
  .inl ⟨rfl, ⟨rfl, rfl, rfl, rfl, rfl⟩, nofun⟩

theorem DuringInit.returned {s : State} (h : DuringInit s) (idle : s.st = .idle) : InitReturned s := by
  obtain running | returned := h
  · have family := running.family
    rw [idle] at family
    cases family
  · exact returned

theorem init_run (dbg : Bool) (s : State) :
    InitReturned (runToReturn (startInit dbg s)) ∧
      StepFrame true (startInit dbg s) (runToReturn (startInit dbg s)) := by
  obtain ⟨during, frame⟩ := runToReturn_keeps (fun _ => tick_duringInit (s := startInit dbg s))
    ⟨startInit_duringInit dbg s, .refl true _⟩
  exact ⟨during.returned (runToReturn_st _), frame⟩

/-- `CMD` and `WRITE` while they run and at their return, from the state `s` of their start. -/
structure OutsideInit (s u : State) : Prop where
  family : u.st.negotiates = false
  frame : StepFrame false s u
  done : u.st = .idle → u.done = true

theorem tick_outsideInit {s u : State} (busy : u.busy = true) (h : OutsideInit s u) : OutsideInit s (tick u) := by
  have effect := tick_effect busy
  have frame := effect.frame
  rw [h.family] at frame
  exact ⟨effect.family h.family, h.frame.trans frame, effect.done⟩

theorem write_run (sector : Word32) (dbg : Bool) (s : State) :
    OutsideInit (startWrite sector dbg s) (runToReturn (startWrite sector dbg s)) :=
  runToReturn_keeps (fun _ => tick_outsideInit) ⟨rfl, .refl false _, nofun⟩

end Sys2Proof.Machine
end

section
/-! PROOF. What `INIT` and `WRITE` leave. -/

namespace Sys2Proof.Machine

/-- Settles O27: the three outcomes of a returned `INIT`, one by one. -/
theorem statusAfterAnyInit : Obligations.StatusAfterAnyInit := by
  unfold Obligations.StatusAfterAnyInit
  intro s t dbg rest h
  have cfg : t.cfg = s.cfg := exec_cfg h
  rw [init_of_rest rest h] at cfg ⊢
  obtain ⟨-, -, resOk, noWriteFlag, outcome⟩ := (init_run dbg s).1
  obtain ⟨ok, fatal, -⟩ | ⟨ok, fatal⟩ | ⟨ok, fatal, policy⟩ := outcome
  · exact ⟨by omega, noWriteFlag, resOk, fun _ => fatal, fun _ _ => ok⟩
  · exact ⟨by omega, noWriteFlag, resOk, by simp [ok], by simp [fatal]⟩
  · rw [cfg] at policy
    exact ⟨by omega, noWriteFlag, resOk, by simp [ok], by simp [policy]⟩

/-- Settles O31: the frame of the steps of `INIT`; the record is gone by O59's invariant, and at a successful return
because step 10 has decoded it. -/
theorem whatInitLeavesUnchanged : Obligations.WhatInitLeavesUnchanged := by
  unfold Obligations.WhatInitLeavesUnchanged
  intro s t dbg rest h
  rw [init_of_rest rest h]
  obtain ⟨returned, frame⟩ := init_run dbg s
  have host := runToReturn_sameHost (startInit dbg s)
  refine ⟨frame.nextAddr rfl, frame.sector, host.cfg, host.inputs, memRead_congr host.mem, returned.idle, returned.done,
    returned.resOk, frame.op, frame.dbg, fun held => ?_, fun ok => ?_⟩
  · have started := heldInv_kept.init s dbg rest.idle held
    exact (runToReturn_keeps heldInv_kept.tick started).csd_of_idle returned.idle
  · obtain ⟨-, -, gone⟩ | ⟨no, -⟩ | ⟨no, -, -⟩ := returned.outcome
    · exact gone
    · simp [ok] at no
    · simp [ok] at no

/-- Settles O49: the frame of the steps outside `INIT`, from the start of `WRITE` to its return. -/
theorem whatWriteLeavesUnchanged : Obligations.WhatWriteLeavesUnchanged := by
  unfold Obligations.WhatWriteLeavesUnchanged
  intro s t sector dbg rest h
  rw [write_of_rest rest h]
  obtain ⟨-, frame, done⟩ := write_run sector dbg s
  have host := runToReturn_sameHost (startWrite sector dbg s)
  have idle := runToReturn_st (startWrite sector dbg s)
  exact ⟨frame.echo rfl, frame.csd rfl, host.cfg, frame.present rfl, frame.writeProt rfl, host.inputs,
    memRead_congr host.mem, idle, done idle, frame.op, frame.dbg, frame.sector⟩

end Sys2Proof.Machine
end

section
/-! SUPPORT. The clock rate along an operation (R68): a run issues `RATE` only while the computed bus state is
released. -/

namespace Sys2Proof.Machine

/-- The phases in which the bus is still released for a `RATE` to come (R144, R151): steps 1 to 3 up to the `RATE` of
step 3, and that of step 8. -/
def Phase.beforeRate : Phase → Bool
  | .n1PowerOff | .n1WaitOff | .n1PowerOn | .n1WaitOn | .n2Present | .n2WriteProt | .n3Rate | .n8Rate => true
  | _ => false

/-- R68 along a run: it holds of the trace so far, and the bus is released where a `RATE` is to come. -/
structure RatesSafe (s : State) : Prop where
  rates : ratesReleased s.trace
  released : s.st.beforeRate = true → busOf s.trace = false

/-- Where no `RATE` is to come, the trace alone decides. -/
theorem RatesSafe.of_past {s : State} (rates : ratesReleased s.trace) (past : s.st.beforeRate = false := by rfl) :
    RatesSafe s :=
  ⟨rates, by simp [past]⟩

theorem takeFault_ratesSafe (e : FaultFlag) {s : State} (rates : ratesReleased s.trace) :
    RatesSafe (takeFault e s) := by
  refine .of_past ?_
  cases hr : e.releasesBus with
  | true => simpa [hr, ratesReleased] using rates
  | false => simpa [hr] using rates

theorem failedAttempt_ratesSafe (e : FaultFlag) {again : State → State} {s : State} (rates : ratesReleased s.trace)
    (next : ∀ n, RatesSafe (again (s.setCnt n))) : RatesSafe (failedAttempt e again s) := by
  unfold failedAttempt
  split
  · exact takeFault_ratesSafe e rates
  · exact next _

/-- The framer issues `ASSERT`, `XFER` and `RELEASE` alone (R123). -/
theorem framerTick_rates (c : Caller) (p : FPhase) {s : State} (rates : ratesReleased s.trace) :
    ratesReleased (framerTick c p s).trace := by
  cases p with
  | frame i =>
    simp only [framerTick, framerFrame]
    split <;> exact rates
  | poll =>
    simp only [framerTick, framerPoll]
    split
    · rwa [afterPoll_trace]
    · split
      · exact rates
      · rwa [afterPoll_trace]
  | assert | extra i | clean | release => exact rates

theorem framerTick_ratesSafe {c : Caller} {p : FPhase} {s : State} (st : s.st = .framer c p)
    (rates : ratesReleased s.trace) : RatesSafe (framerTick c p s) := by
  refine .of_past (framerTick_rates c p rates) ?_
  obtain st' | ⟨q, st'⟩ := (framerTick_step true st).st <;> rw [st'] <;> rfl

theorem enterOpcond_ratesSafe {s : State} (rates : ratesReleased s.trace) : RatesSafe (enterOpcond s) := by
  unfold enterOpcond
  split <;> exact .of_past rates

/-- No judgement selects a rate, and step 8 begins with its `Release()` (R151). -/
theorem judge_ratesSafe (c : Caller) {s : State} (rates : ratesReleased s.trace) : RatesSafe (judge c s) := by
  cases c <;> simp only [judge]
  case n4Idle =>
    unfold judgeGoIdle
    split
    · exact .of_past rates
    · exact takeFault_ratesSafe _ rates
  case n5IfCond =>
    unfold judgeIfCond judgeLegacy
    split
    · exact enterOpcond_ratesSafe rates
    · split
      · exact .of_past rates
      · exact enterOpcond_ratesSafe rates
  case n6OpcondHc =>
    unfold judgeOpcondHc
    split
    · exact .of_past rates
    · exact failedAttempt_ratesSafe _ rates fun _ => .of_past rates
  case n6Ocr =>
    unfold judgeReadOcr
    split
    · exact takeFault_ratesSafe _ rates
    · split
      · exact takeFault_ratesSafe _ rates
      · exact .of_past rates
  case n7OpcondLegacy =>
    unfold judgeOpcondLegacy
    split
    · exact .of_past rates
    · exact failedAttempt_ratesSafe _ rates fun _ => .of_past rates
  case n9CsdCmd =>
    unfold judgeSendCsd
    split
    · exact .of_past rates
    · exact failedAttempt_ratesSafe _ rates fun _ => .of_past rates
  case wCmd =>
    unfold judgeWriteCmd
    split
    · exact .of_past rates
    · exact takeFault_ratesSafe _ rates
  case host | n11CrcOnOff | n11SetBlocklen => exact .of_past rates

/-- Steps 1 and 2 hand the released bus on, the `Release()` of step 8 releases it, and the two `RATE`s find it
released. -/
theorem tick_ratesSafe {s : State} (h : RatesSafe s) : RatesSafe (tick s) := by
  obtain ⟨rates, released⟩ := h
  cases st : s.st <;>
    simp only [tick, st, primePhase, readCsdByte, csdPhase, sendToken, sendPayload, dataPhase, sendCheck] <;>
    rw [st] at released
  case idle => exact .of_past rates (by rw [st]; rfl)
  case framer c p => exact framerTick_ratesSafe st rates
  case judge c => exact judge_ratesSafe c rates
  case n1PowerOff | n1WaitOff | n1PowerOn | n1WaitOn => exact ⟨rates, released⟩
  case n2Present =>
    unfold checkPresent
    split
    · exact ⟨rates, released⟩
    · exact takeFault_ratesSafe _ rates
  case n2WriteProt =>
    unfold checkWriteProt
    split
    · exact takeFault_ratesSafe _ rates
    · exact ⟨rates, released⟩
  case n3Rate =>
    split <;> exact .of_past ⟨released rfl, rates⟩
  case n8Release => exact ⟨rates, fun _ => rfl⟩
  case n8Rate => exact .of_past ⟨released rfl, rates⟩
  case n9CsdJudge =>
    unfold judgeCsdToken csdPhase
    split
    · split <;> exact .of_past rates
    · exact failedAttempt_ratesSafe _ rates fun _ => .of_past rates
  case n3Prime | n9CsdData | wToken | wData | wCheck => split <;> exact .of_past rates
  case wRespJudge =>
    unfold judgeDataResponse
    split
    · exact .of_past rates
    · exact takeFault_ratesSafe _ rates
  case wBusyJudge =>
    unfold judgeBusy
    split
    · exact .of_past rates
    · exact failedAttempt_ratesSafe _ rates fun _ => .of_past rates
  all_goals exact .of_past rates

/-- From rest, `INIT` completes. -/
theorem exec_init_of_rest {s : State} (dbg : Bool) (rest : s.AtRest) :
    exec (.init dbg) s = .next (runToReturn (startInit dbg s)) :=
  congrArg Host.Outcome.next (init_of_rest rest rfl)

end Sys2Proof.Machine
end

section
/-! PROOF. The clock rate and the bus. -/

namespace Sys2Proof.Machine

/-- Settles O29: `INIT` starts before the `RATE` of step 3 with the bus released, and each of its steps keeps R68. -/
theorem ratesChangeOnlyWhileReleased : Obligations.RatesChangeOnlyWhileReleased := by
  unfold Obligations.RatesChangeOnlyWhileReleased
  intro s dbg rest released rates
  have started : RatesSafe (startInit dbg s) := ⟨rates, fun _ => released⟩
  have ended := runToReturn_keeps (fun _ _ h => tick_ratesSafe h) started
  exact ⟨_, exec_init_of_rest dbg rest, ended.rates⟩

end Sys2Proof.Machine
end

section
/-! SUPPORT. The decoder and the encoder, said once: which words decode and to what, the word that a row's fields make,
and what a start of a word does at an idle block (R80, R89, R90). -/

namespace Sys2Proof

/-- `selectRow` names `FRAME` for the frames that no other row of the table claims. -/
theorem selectRow_of_unnamed {idx : BitVec 6} {arg : Word32} {crc : BitVec 7} {extra : Byte}
    (unnamed : ¬ (namedRow idx arg crc = true ∧ extra = 0)) (dbg : Bool) :
    selectRow idx arg crc extra dbg = .frame idx arg crc extra dbg := by
  unfold selectRow
  split
  · rfl
  · next noExtra =>
    have free : namedRow idx arg crc = false :=
      Bool.eq_false_of_not_eq_true fun named => unnamed ⟨named, not_not.mp noExtra⟩
    simp only [namedRow, Bool.or_eq_false_iff] at free
    repeat' split
    all_goals simp_all

/-- Whichever row `selectRow` names, the fields make up that row's frame word: no operand is lost. -/
theorem encode_selectRow (idx : BitVec 6) (arg : Word32) (crc : BitVec 7) (extra : Byte) (dbg : Bool) :
    encode (selectRow idx arg crc extra dbg) = frameWord idx arg crc extra dbg := by
  unfold selectRow
  split
  · rfl
  · next noExtra =>
    obtain rfl := not_not.mp noExtra
    repeat' split
    all_goals simp_all [encode]

/-- An operation word decodes by its `op` to the operation with its operands (R90). -/
theorem decode_hostopWord (op : BitVec 2) (idx : BitVec 6) (arg : Word32) (extra : Byte) (dbg : Bool)
    (sector : Word32) :
    decode (hostopWord op idx arg extra dbg sector) =
      .ok (if op = 0b00 then .nop else if op = 0b01 then .cmd idx arg extra dbg
        else if op = 0b10 then .init dbg else .write sector dbg) := by
  obtain ⟨hop, hidx, harg, hextra, hdbg, hsector⟩ := hostop_fields sector dbg extra arg idx op
  simp only [decode, hostopWord, decodeHostop, hop, hidx, harg, hextra, hdbg, hsector]

theorem decode_frame_of_startBit {w : BitVec 57} (start : w.getLsbD 47 = true) :
    decode (.frame w) = .error .startBit := by
  rw [decode, decodeFrame, start]; rfl

theorem decode_frame_of_transmitMarker {w : BitVec 57} (start : w.getLsbD 47 = false)
    (marker : w.getLsbD 46 = false) : decode (.frame w) = .error .transmitMarker := by
  rw [decode, decodeFrame, start, marker]; rfl

theorem decode_frame_of_stopBit {w : BitVec 57} (start : w.getLsbD 47 = false) (marker : w.getLsbD 46 = true)
    (stop : w.getLsbD 0 = false) : decode (.frame w) = .error .stopBit := by
  rw [decode, decodeFrame, start, marker, stop]; rfl

/-- R80: the bits of a frame word that are constants. -/
structure FrameConstants (w : BitVec 57) : Prop where
  startBit : w.getLsbD 47 = false
  transmitMarker : w.getLsbD 46 = true
  stopBit : w.getLsbD 0 = true

/-- A frame word decodes exactly when its constant bits are right, and then to the row that its fields name. -/
theorem decode_frame_eq_ok_iff (w : BitVec 57) (i : Instr) :
    decode (.frame w) = .ok i ↔ FrameConstants w ∧
      selectRow (w.extractLsb' 40 6) (w.extractLsb' 8 32) (w.extractLsb' 1 7) (w.extractLsb' 48 8) (w.getLsbD 56) =
        i := by
  constructor
  · intro h
    simp only [decode, decodeFrame] at h
    split at h
    · cases h
    · next start =>
      split at h
      · cases h
      · next marker =>
        split at h
        · cases h
        · next stop =>
          exact ⟨⟨by simpa using start, by simpa using marker, by simpa using stop⟩, by simpa using h⟩
  · rintro ⟨⟨start, marker, stop⟩, rfl⟩
    rw [decode, decodeFrame, start, marker, stop]; rfl

/-- The frame of a word's own fields is the word's frame, when the constant bits are right. -/
theorem FrameConstants.frame48_fields {w : BitVec 57} (h : FrameConstants w) :
    frame48 (w.extractLsb' 40 6) (w.extractLsb' 8 32) (w.extractLsb' 1 7) = w.extractLsb' 0 48 := by
  obtain ⟨start, marker, stop⟩ := h
  have field {n k i : Nat} (hi : i < k) : (w.extractLsb' n k).getLsbD i = w.getLsbD (n + i) := by
    rw [BitVec.getLsbD_extractLsb', decide_eq_true hi, Bool.true_and]
  refine (field_eq _ _ fun j hj => ?_).symm
  rw [frame48_bit, Nat.zero_add]
  split_ifs
  · obtain rfl : j = 0 := by omega
    simpa using stop
  · rw [field (by omega)]; congr 1; omega
  · rw [field (by omega)]; congr 1; omega
  · rw [field (by omega)]; congr 1; omega
  · obtain rfl : j = 46 := by omega
    simpa using marker
  · obtain rfl : j = 47 := by omega
    simpa using start

end Sys2Proof

namespace Sys2Proof.Machine

section IdleStart
variable {s : State} {n : Nat} {w : PortWord} {rest : List Arrival}

/-- A start lands at once in an idle block, whenever it was to land; an earlier `done` pulse is over (R30). -/
theorem step_of_idle_start (idle : s.st = .idle) (input : s.inputs = ⟨n, .start w⟩ :: rest) :
    step s = hostStart w { s with done := false, inputs := rest } := by
  simp [step, hostStep, hostInput, State.busy, idle, input]

/-- R90: an idle block runs the instruction that the word decodes to. -/
theorem step_of_idle_start_ok {i : Instr} (idle : s.st = .idle) (input : s.inputs = ⟨n, .start w⟩ :: rest)
    (decoded : decode w = .ok i) : step s = exec i { s with done := false, inputs := rest } := by
  simp [step_of_idle_start idle input, hostStart, State.busy, idle, decoded]

/-- R89: an idle block refuses a word that is no instruction. -/
theorem step_of_idle_start_error {e : DecodeError} (idle : s.st = .idle)
    (input : s.inputs = ⟨n, .start w⟩ :: rest) (malformed : decode w = .error e) :
    step s = .refused (refusalOf e) := by
  simp [step_of_idle_start idle input, hostStart, State.busy, idle, malformed]

end IdleStart

end Sys2Proof.Machine
end

section
/-! PROOF. The decoder and the encoder, and the start of a decoded word. -/

namespace Sys2Proof.Machine

/-- Settles O1, by the instruction: each row of fixed fields is the one that `selectRow` finds for them, `FRAME` is well
formed only where no other row claims its fields, and an operation is found by its `op`. -/
theorem decodeOfEncodeIsTheInstruction : Obligations.DecodeOfEncodeIsTheInstruction := by
  unfold Obligations.DecodeOfEncodeIsTheInstruction
  intro i wf
  cases i with
  | frame idx arg crc extra dbg =>
    have unnamed : ¬ (namedRow idx arg crc = true ∧ extra = 0) := by
      simp only [Instr.wellFormed, Bool.and_eq_true, Bool.not_eq_true', Bool.and_eq_false_iff] at wf
      simpa [imp_iff_not_or] using wf.2
    rw [encode, decode_frameWord, selectRow_of_unnamed unnamed]
  | nop | cmd | init | write => exact decode_hostopWord _ _ _ _ _ _
  | _ => exact decode_frameWord _ _ _ _ _

/-- Settles O2: the row found for a word's fields encodes those fields, and they are all of the frame but its constant
bits, which were right. -/
theorem decodedFrameKeepsEveryBit : Obligations.DecodedFrameKeepsEveryBit := by
  unfold Obligations.DecodedFrameKeepsEveryBit
  intro w i h
  obtain ⟨constants, rfl⟩ := (decode_frame_eq_ok_iff w i).mp h
  refine ⟨_, encode_selectRow _ _ _ _ _, ?_⟩
  rw [← constants.frame48_fields]
  exact Laws.tableBits_frameWord _ _ _ _ _

/-- Settles O4: the decoder tests the three constant bits in this order, and an idle block passes its error on. -/
theorem malformedFrameWordsAreRefused : Obligations.MalformedFrameWordsAreRefused := by
  unfold Obligations.MalformedFrameWordsAreRefused
  intro w s n rest
  refine ⟨⟨fun ⟨i, h⟩ => ?_, fun ⟨start, marker, stop⟩ => ?_⟩, fun idle input => ?_⟩
  · obtain ⟨⟨start, marker, stop⟩, -⟩ := (decode_frame_eq_ok_iff w i).mp h
    exact ⟨start, marker, stop⟩
  · exact ⟨_, (decode_frame_eq_ok_iff w _).mpr ⟨⟨start, marker, stop⟩, rfl⟩⟩
  · exact ⟨fun start => step_of_idle_start_error idle input (decode_frame_of_startBit start),
      fun start marker => step_of_idle_start_error idle input (decode_frame_of_transmitMarker start marker),
      fun start marker stop => step_of_idle_start_error idle input (decode_frame_of_stopBit start marker stop)⟩

/-- Settles O3, by evaluation of the decoder at the fourteen words. -/
theorem tableWordsDecodeToTheirRows : Obligations.TableWordsDecodeToTheirRows := by
  unfold Obligations.TableWordsDecodeToTheirRows
  decide

/-- Settles O7: the start lands at once in an idle block, which runs what it decodes. -/
theorem aStepRunsTheDecodedInstruction : Obligations.AStepRunsTheDecodedInstruction := by
  unfold Obligations.AStepRunsTheDecodedInstruction
  intro s n w rest i idle input decoded
  exact step_of_idle_start_ok idle input decoded

/-- Settles O22: the arm of `NOP` answers the state it is given (R89, U24). -/
theorem nopChangesNothing : Obligations.NopChangesNothing := by
  unfold Obligations.NopChangesNothing
  exact fun _ => rfl

end Sys2Proof.Machine
end

section
/-! SUPPORT. Check value and frame bytes (R81, R82), and what a framer call that a host starts sends first (R110). -/

namespace Sys2Proof.Machine

/-- R82: a key of the table that stands there once is looked up to its entry. -/
theorem crcLookup_of_mem {c : Config} {idx : BitVec 6} {v : BitVec 7} (keys : (c.crcTable.map Prod.fst).Nodup)
    (entry : (idx, v) ∈ c.crcTable) : crcLookup c idx = v := by
  obtain ⟨before, after, table⟩ := List.append_of_mem entry
  rw [table, List.map_append, List.nodup_append] at keys
  obtain ⟨-, -, distinct⟩ := keys
  have first : ∀ p ∈ before, (idx != p.1) = true := fun p hp =>
    bne_iff_ne.mpr (distinct p.1 (List.mem_map_of_mem hp) idx (by simp)).symm
  rw [crcLookup, List.lookup_eq_some_iff.mpr ⟨before, after, table, first⟩, Option.getD_some]

/-- R82: an index that is no key of the table gets the default. -/
theorem crcLookup_of_not_key {c : Config} {idx : BitVec 6} (absent : ∀ p ∈ c.crcTable, p.1 ≠ idx) :
    crcLookup c idx = c.crcDefault := by
  have noEntry : c.crcTable.lookup idx = none :=
    List.lookup_eq_none_iff.mpr fun p hp => bne_iff_ne.mpr (absent p hp).symm
  rw [crcLookup, noEntry, Option.getD_none]

theorem frameHead_eq (idx : BitVec 6) : frameHead idx = 0x40 ||| idx.setWidth 8 := by
  revert idx; decide

theorem frameTail_toNat (c : Config) (idx : BitVec 6) :
    (frameTail c idx).toNat = 2 * (crcLookup c idx).toNat + 1 := by
  unfold frameTail
  generalize crcLookup c idx = crc
  revert crc; decide

/-- Byte `k / 8` of an argument, as a number (R81). -/
theorem argByte_toNat (arg : Word32) (k : Nat) : (arg.extractLsb' k 8).toNat = arg.toNat / 2 ^ k % 256 := by
  rw [BitVec.extractLsb'_toNat, Nat.shiftRight_eq_div_pow]

@[simp] theorem closeFrame_f (s : State) : (closeFrame s).f = s.f := by
  unfold closeFrame; split <;> rfl

theorem closeFrame_trace_suffix (s : State) : s.trace <:+ (closeFrame s).trace := by
  unfold closeFrame
  split
  · exact List.suffix_rfl
  · exact List.suffix_append [_, _] _

theorem State.afterSending_trace_suffix (s : State) (l : List Byte) : s.trace <:+ (s.afterSending l).trace :=
  List.suffix_append _ _

/-- Whatever the device answers, a framer call sends `FILLER` after the six frame bytes, and closes (R110, R113). -/
theorem transmit_eq_closeFrame (idx : BitVec 6) (arg : Word32) (extra : Byte) (s : State) :
    ∃ k u, transmit idx arg extra s = closeFrame u ∧ u.f = buildFrame s.cfg idx arg ∧
      u.trace = ((openFrame idx arg extra s).afterSending
        ((buildFrame s.cfg idx arg).toList ++ List.replicate k s.cfg.filler)).trace := by
  rcases poll_cases s.env.xfer s.cfg.filler s.cfg.cmdRetry.toNat with silent | ⟨j, hj, before, token⟩
  · exact ⟨_, _, transmit_silent idx arg extra s silent, rfl, rfl⟩
  · exact ⟨_, _, transmit_answered idx arg extra s j hj before token, rfl, rfl⟩

/-- A framer call keeps the frame that it built, and begins with `Assert()` and the six frame bytes (R110, R112). -/
theorem transmit_opens (idx : BitVec 6) (arg : Word32) (extra : Byte) (s : State) :
    (transmit idx arg extra s).f = buildFrame s.cfg idx arg ∧
      ((openFrame idx arg extra s).afterSending (buildFrame s.cfg idx arg).toList).trace <:+
        (transmit idx arg extra s).trace := by
  obtain ⟨k, u, call, frame, trace⟩ := transmit_eq_closeFrame idx arg extra s
  rw [call]
  refine ⟨(closeFrame_f u).trans frame, List.IsSuffix.trans ?_ (closeFrame_trace_suffix u)⟩
  rw [trace, ← State.afterSending_append]
  exact State.afterSending_trace_suffix _ _

/-- From rest, a framed command that starts runs as `TransmitCommand` and returns. -/
theorem hostFrame_of_rest {s : State} {extra : Byte} (rest : s.AtRest) (fits : ¬ extraRefused s.cfg extra)
    (idx : BitVec 6) (arg : Word32) (dbg : Bool) :
    hostFrame idx arg extra dbg s = returnCmd (transmit idx arg extra (s.startOp 0b01 dbg)) := by
  have idle : ¬ s.busy = true := by simp [State.busy, rest.idle]
  rw [hostFrame, if_neg idle, if_neg fits]
  calc runOn (startCmd idx arg extra dbg s)
      = runToReturn (startCmd idx arg extra dbg s) := runOn_undisturbed rest.undisturbed
    _ = runToReturn ((transmit idx arg extra (s.startOp 0b01 dbg)).goto (.judge .host)) := run_callFramer _ _ _ _ _
    _ = runToReturn (returnCmd (transmit idx arg extra (s.startOp 0b01 dbg))) := run_judge _ _
    _ = returnCmd (transmit idx arg extra (s.startOp 0b01 dbg)) := runToReturn_finish _ _

end Sys2Proof.Machine
end

section
/-! PROOF. The frame bytes and the check value. -/

namespace Sys2Proof.Machine

/-- Settles O5: from rest `CMD` runs as `TransmitCommand`, which begins with `Assert()` and `buildFrame`'s bytes. -/
theorem frameBytesAreBuiltAndSentInOrder : Obligations.FrameBytesAreBuiltAndSentInOrder := by
  unfold Obligations.FrameBytesAreBuiltAndSentInOrder
  intro s idx arg extra dbg rest fits
  obtain ⟨frame, l, events⟩ := transmit_opens idx arg extra (s.startOp 0b01 dbg)
  refine ⟨_, l.reverse, frameHead idx, arg.extractLsb' 24 8, arg.extractLsb' 16 8, arg.extractLsb' 8 8,
    arg.extractLsb' 0 8, frameTail s.cfg idx, congrArg Host.Outcome.next (hostFrame_of_rest rest fits idx arg dbg),
    frameHead_eq idx, ?_, argByte_toNat arg 16, argByte_toNat arg 8, ?_, frameTail_toNat s.cfg idx, frame, ?_⟩
  · rw [argByte_toNat]
    omega
  · rw [argByte_toNat, pow_zero, Nat.div_one]
  · rw [returnCmd_eq, State.finish_trace, ← events]
    simp [State.afterSending, openFrame, State.assertBus, State.emit, State.setF, buildFrame]

/-- Settles O6: a key is found where it stands once, any other index is not found; the standard table has two keys. -/
theorem checkValueIsLookedUpByIndex : Obligations.CheckValueIsLookedUpByIndex := by
  unfold Obligations.CheckValueIsLookedUpByIndex
  exact ⟨fun _ _ _ => crcLookup_of_mem, fun _ _ => crcLookup_of_not_key, by decide⟩

end Sys2Proof.Machine
end

section
/-! SUPPORT. A framer call in closed form (R110 to R118): the state that it leaves, from the state before it and what
the device answered. -/

namespace Sys2Proof.Machine

theorem closeFrame_of_negative {s : State} (negative : extraNegative s.extra) : closeFrame s = s := if_pos negative

theorem closeFrame_of_nonnegative {s : State} (nonnegative : ¬ extraNegative s.extra) :
    closeFrame s = (s.xfer s.cfg.filler).releaseBus := if_neg nonnegative

/-- What a framer call gets from the device: how many times it sends `FILLER` for a poll or an extra byte, the poll
count at which it stops, the response token pair, and the extra bytes. -/
structure Reply where
  fillers : Nat
  n : Count
  r1 : Byte
  answered : Bool
  xbuf : List Byte

/-- R114: every poll brought `FILLER`. -/
def Reply.silent (c : Config) : Reply := ⟨c.cmdRetry.toNat, c.cmdRetry, c.filler, false, []⟩

/-- R113, R115: poll `j`, counted from 0, brought the response token, and the extra bytes follow it. -/
def Reply.atPoll (a : Answers Byte) (extra : Byte) (j : Nat) : Reply :=
  ⟨j + 1 + extraCount extra, BitVec.ofNat 16 (j + 1), a.nth (6 + j), true, received a (7 + j) (extraCount extra)⟩

/-- R116, R117: how many cleanup transfers end a call. -/
def cleanups (extra : Byte) : Nat := if extraNegative extra then 0 else 1

/-- The bytes that a call transmits: the frame, then `FILLER` for each poll, extra byte and cleanup transfer. -/
def Reply.sent (r : Reply) (c : Config) (idx : BitVec 6) (arg : Word32) (extra : Byte) : List Byte :=
  (buildFrame c idx arg).toList ++ List.replicate (r.fillers + cleanups extra) c.filler

/-- The state that a framer call leaves, given what the device answered: everything that is not named here stays. -/
def State.afterCall (s : State) (idx : BitVec 6) (arg : Word32) (extra : Byte) (r : Reply) : State :=
  { s with
    idx := idx, arg := arg, extra := extra, f := buildFrame s.cfg idx arg
    n := r.n, r1 := r.r1, answered := r.answered, framed := true, xbuf := r.xbuf
    busAsserted := decide (extraNegative extra)
    env := { s.env with xfer := s.env.xfer.skip (r.sent s.cfg idx arg extra).length }
    trace := (if extraNegative extra then [] else [.release]) ++
      (exchange s.env.xfer s.dbg 0 (r.sent s.cfg idx arg extra)).reverse ++ .assert :: s.trace }

section Call
variable (idx : BitVec 6) (arg : Word32) (extra : Byte) (s : State)

/-- R116, R117: the tail of a call, after its last poll or extra byte. -/
theorem closeFrame_eq_afterCall (r : Reply) :
    closeFrame (((((openFrame idx arg extra s).afterSending ((buildFrame s.cfg idx arg).toList ++
        List.replicate r.fillers s.cfg.filler)).setToken r.r1 r.answered).setN r.n).setXbuf r.xbuf) =
      s.afterCall idx arg extra r := by
  by_cases negative : extraNegative extra
  · refine (closeFrame_of_negative ?_).trans ?_
    · exact negative
    · simp only [State.afterCall, Reply.sent, cleanups, if_pos negative, decide_eq_true negative]
      rfl
  · refine (closeFrame_of_nonnegative ?_).trans ?_
    · exact negative
    · simp only [State.afterCall, Reply.sent, cleanups, if_neg negative, decide_eq_false negative,
        ← List.replicate_append_replicate, ← List.append_assoc]
      rw [State.xfer_eq, State.setXbuf_afterSending, State.setN_afterSending, State.setToken_afterSending,
        State.afterSending_append]
      rfl

variable {s}

theorem transmit_of_silent (silent : ∀ j, j < s.cfg.cmdRetry.toNat → s.env.xfer.nth (6 + j) = s.cfg.filler) :
    transmit idx arg extra s = s.afterCall idx arg extra (.silent s.cfg) :=
  (transmit_silent idx arg extra s silent).trans (closeFrame_eq_afterCall idx arg extra s (.silent s.cfg))

theorem transmit_of_token {j : Nat} (inTime : j < s.cfg.cmdRetry.toNat)
    (before : ∀ i, i < j → s.env.xfer.nth (6 + i) = s.cfg.filler) (token : s.env.xfer.nth (6 + j) ≠ s.cfg.filler) :
    transmit idx arg extra s = s.afterCall idx arg extra (.atPoll s.env.xfer extra j) :=
  (transmit_answered idx arg extra s j inTime before token).trans
    (closeFrame_eq_afterCall idx arg extra s (.atPoll s.env.xfer extra j))

variable (s)

/-- What is true of every reply (R113, R120, R122). -/
structure Reply.Fits (r : Reply) (c : Config) (extra : Byte) : Prop where
  fillers : r.fillers ≤ c.cmdRetry.toNat + extraCount extra
  token : r.answered = true ↔ r.r1 ≠ c.filler

/-- The reply is a matter of the device's answers and the configuration: whatever else the state holds, the call ends
with the same reply. -/
theorem transmit_eq_afterCall : ∃ r : Reply, r.Fits s.cfg extra ∧
    ∀ t : State, t.cfg = s.cfg → t.env = s.env → transmit idx arg extra t = t.afterCall idx arg extra r := by
  rcases poll_cases s.env.xfer s.cfg.filler s.cfg.cmdRetry.toNat with silent | ⟨j, inTime, before, token⟩
  · refine ⟨.silent s.cfg, ⟨Nat.le_add_right _ _, by simp [Reply.silent]⟩, fun t cfg env => ?_⟩
    rw [← cfg, ← env] at silent
    rw [transmit_of_silent idx arg extra silent, cfg]
  · refine ⟨.atPoll s.env.xfer extra j, ⟨Nat.add_le_add_right inTime _, by simpa [Reply.atPoll] using token⟩,
      fun t cfg env => ?_⟩
    rw [← cfg] at inTime
    rw [← cfg, ← env] at before token
    rw [transmit_of_token idx arg extra inTime before token, env]

variable (r : Reply)

/-- The events of a call in the order in which they happen. -/
theorem State.afterCall_trace_reverse :
    (s.afterCall idx arg extra r).trace.reverse = s.trace.reverse ++
      (.assert :: exchange s.env.xfer s.dbg 0 (r.sent s.cfg idx arg extra)) ++
        (if extraNegative extra then [] else [.release]) := by
  unfold State.afterCall
  split <;> simp

/-- R122: `ASSERT`, six frame bytes, the fillers, and for `extra >= 0` the cleanup and `RELEASE`. -/
theorem State.afterCall_trace_length :
    (s.afterCall idx arg extra r).trace.length =
      s.trace.length + (1 + 6 + r.fillers + if extraNegative extra then 0 else 2) := by
  unfold State.afterCall Reply.sent cleanups
  split <;> simp <;> omega

/-- A call issues no more events than R122 allows. -/
theorem transmit_trace_length_le :
    (transmit idx arg extra s).trace.length ≤
      s.trace.length + (1 + 6 + s.cfg.cmdRetry.toNat + extra.toInt.toNat + 2) := by
  obtain ⟨r, ⟨fillers, -⟩, call⟩ := transmit_eq_afterCall idx arg extra s
  rw [call s rfl rfl, State.afterCall_trace_length]
  unfold extraCount at fillers
  split <;> omega

/-- R123: a call commutes with a write of `dev`. -/
theorem transmit_setDev (d : DeviceHandle) :
    transmit idx arg extra (s.setDev d) = (transmit idx arg extra s).setDev d := by
  obtain ⟨r, -, call⟩ := transmit_eq_afterCall idx arg extra s
  rw [call s rfl rfl, call (s.setDev d) rfl rfl]
  rfl

theorem transmit_dev : (transmit idx arg extra s).dev = s.dev := by
  obtain ⟨r, -, call⟩ := transmit_eq_afterCall idx arg extra s
  rw [call s rfl rfl]
  rfl

end Call

/-- From rest, `CMD` with an `extra` that starts is a framer call with the host's result. -/
theorem exec_cmd_of_rest {s : State} {extra : Byte} (rest : s.AtRest) (fits : ¬ extraRefused s.cfg extra)
    (idx : BitVec 6) (arg : Word32) (dbg : Bool) :
    exec (.cmd idx arg extra dbg) s = .next (returnCmd (transmit idx arg extra (s.startOp 0b01 dbg))) :=
  congrArg Host.Outcome.next (hostFrame_of_rest rest fits idx arg dbg)

/-- R89, R121: an idle block refuses a framed command that asks for too many extra bytes. -/
theorem hostFrame_of_tooMany {s : State} {extra : Byte} (idle : s.st = .idle) (tooMany : extraRefused s.cfg extra)
    (idx : BitVec 6) (arg : Word32) (dbg : Bool) : hostFrame idx arg extra dbg s = refuseStart s := by
  rw [hostFrame, if_neg (by simp [State.busy, idle]), if_pos tooMany]

/-- R89: no configuration refuses an `extra` that asks for no byte. -/
theorem not_extraRefused_of_none (c : Config) {extra : Byte} (noByte : extraCount extra = 0) :
    ¬ extraRefused c extra := by
  rw [extraRefused, noByte]
  exact Nat.not_lt_zero _

end Sys2Proof.Machine
end

section
/-! PROOF. The framer, as the host's `CMD` and the wire commands run it. -/

namespace Sys2Proof.Machine

/-- Settles O14: each of the eleven is the framed command of its row, and an `extra` of 0 or -1 always starts. -/
theorem cmdAndWireCommandsAreTransmitCommand : Obligations.CmdAndWireCommandsAreTransmitCommand := by
  unfold Obligations.CmdAndWireCommandsAreTransmitCommand
  intro s rest
  have runs {extra : Byte} (fits : ¬ extraRefused s.cfg extra) (idx : BitVec 6) (arg : Word32) (dbg : Bool) :
      Host.Outcome.next (φ := Fault) (ρ := Refusal) (hostFrame idx arg extra dbg s) =
        .next (returnCmd (transmit idx arg extra (s.startOp 0b01 dbg))) :=
    exec_cmd_of_rest rest fits idx arg dbg
  have zero : ¬ extraRefused s.cfg 0 := not_extraRefused_of_none s.cfg rfl
  have minusOne : ¬ extraRefused s.cfg extraMinusOne := not_extraRefused_of_none s.cfg rfl
  exact ⟨fun idx arg extra dbg fits => runs fits idx arg dbg, fun idx arg _ extra dbg fits => runs fits idx arg dbg,
    runs zero _ _, fun dbg fits => runs fits _ _ dbg, fun _ => runs zero _ _, fun _ => runs zero _ _,
    fun _ dbg fits => runs fits _ _ dbg, fun _ => runs minusOne _ _, fun _ => runs zero _ _, fun _ => runs zero _ _,
    fun arg _ => runs minusOne _ arg⟩

/-- Settles O15, by the closed form of a call whose poll `k` brings the token. -/
theorem anAnsweredCmd : Obligations.AnAnsweredCmd := by
  unfold Obligations.AnAnsweredCmd
  intro s idx arg extra dbg k rest fits inTime before token
  refine ⟨_, exec_cmd_of_rest rest fits idx arg dbg, ?_⟩
  rw [transmit_of_token idx arg extra (s := s.startOp 0b01 dbg) inTime before token]
  exact ⟨rfl, rfl, rfl, rfl, rfl, rfl, rfl, State.afterCall_trace_reverse idx arg extra _ _⟩

/-- Settles O16, by the closed form of a call to a silent device. -/
theorem anUnansweredCmd : Obligations.AnUnansweredCmd := by
  unfold Obligations.AnUnansweredCmd
  intro s idx arg extra dbg rest fits silent
  refine ⟨_, exec_cmd_of_rest rest fits idx arg dbg, ?_⟩
  rw [transmit_of_silent idx arg extra (s := s.startOp 0b01 dbg) silent]
  refine ⟨rfl, rfl, rfl, rfl, rfl, rfl, rfl, State.afterCall_trace_reverse idx arg extra _ _, fun bound => ?_⟩
  rw [returnCmd_eq, State.finish_trace, State.afterCall_trace_length]
  simp only [Reply.silent, State.startOp_cfg, State.startOp_trace, bound]
  split <;> rfl

/-- Settles O17: the closed form counts the events, and `CMD` adds none. -/
theorem aCmdIssuesABoundedNumberOfEvents : Obligations.ACmdIssuesABoundedNumberOfEvents := by
  unfold Obligations.ACmdIssuesABoundedNumberOfEvents
  refine ⟨fun s idx arg extra => transmit_trace_length_le idx arg extra s, ?_⟩
  intro s idx arg extra dbg rest fits
  have bound := transmit_trace_length_le idx arg extra (s.startOp 0b01 dbg)
  refine ⟨_, exec_cmd_of_rest rest fits idx arg dbg, rfl, bound, ?_⟩
  rintro standard rfl
  rw [State.startOp_cfg, standard] at bound
  exact bound

/-- Settles O18: a call commutes with a write of `dev`, and so do the start and the return of `CMD`. -/
theorem theFramerReadsAndWritesNothingOfDev : Obligations.TheFramerReadsAndWritesNothingOfDev := by
  unfold Obligations.TheFramerReadsAndWritesNothingOfDev
  refine ⟨fun s d idx arg extra => ⟨transmit_dev idx arg extra s, transmit_setDev idx arg extra s d⟩, ?_⟩
  intro s d idx arg extra dbg rest fits
  refine ⟨_, exec_cmd_of_rest rest fits idx arg dbg, transmit_dev idx arg extra (s.startOp 0b01 dbg), ?_⟩
  have rest' : (s.setDev d).AtRest := ⟨rest.idle, rest.undisturbed⟩
  calc exec (.cmd idx arg extra dbg) (s.setDev d)
      = .next (returnCmd (transmit idx arg extra ((s.startOp 0b01 dbg).setDev d))) :=
        exec_cmd_of_rest rest' fits idx arg dbg
    _ = .next ((returnCmd (transmit idx arg extra (s.startOp 0b01 dbg))).setDev d) := by rw [transmit_setDev]; rfl

/-- Settles O19: the closed form of a call names what it writes. -/
theorem whatACmdLeavesUnchanged : Obligations.WhatACmdLeavesUnchanged := by
  unfold Obligations.WhatACmdLeavesUnchanged
  intro s t idx arg extra dbg rest fits h
  rw [exec_cmd_of_rest rest fits] at h
  obtain ⟨r, ⟨-, token⟩, call⟩ := transmit_eq_afterCall idx arg extra (s.startOp 0b01 dbg)
  rw [call _ rfl rfl] at h
  cases h
  exact ⟨rfl, rfl, rfl, rfl, rfl, rfl, rfl, rfl, rfl, fun _ => rfl, rfl, rfl, rfl, rfl, token, rfl, rfl, rfl, rfl, rfl,
    rfl⟩

/-- Settles O20: a framed command that asks for more than `XBUF_MAX` extra bytes is refused at the host port. -/
theorem tooManyExtraBytesAreRefused : Obligations.TooManyExtraBytesAreRefused := by
  unfold Obligations.TooManyExtraBytesAreRefused
  intro s dbg idle
  have refused {extra : Byte} (tooMany : (s.cfg.xbufMax : Int) < extra.toInt) (idx : BitVec 6) (arg : Word32) :
      Host.Outcome.next (φ := Fault) (ρ := Refusal) (hostFrame idx arg extra dbg s) =
        .next { s with done := true, resOk := false } :=
    congrArg Host.Outcome.next
      (hostFrame_of_tooMany idle (by unfold extraRefused extraCount; omega) idx arg dbg)
  exact ⟨fun idx arg _ extra tooMany => ⟨refused tooMany idx arg, refused tooMany idx arg⟩,
    fun _ tooMany => ⟨refused tooMany _ _, refused tooMany _ _⟩⟩

end Sys2Proof.Machine
end

section
/-! SUPPORT. The debug selection (R119): the block reads it for the tags of its events only, and it never reads the
trace. So a run that is told with another selection and after other events is the same run, told so. -/

namespace Sys2Proof.Machine

/-- An event with this debug tag (R119). -/
def Event.withTag (dbg : Bool) : Event → Event
  | .xfer x y _ => .xfer x y dbg
  | .assert => .assert
  | .release => .release
  | .rate r => .rate r
  | .pwrOff => .pwrOff
  | .pwrOn => .pwrOn
  | .sensePresent b => .sensePresent b
  | .senseWp b => .senseWp b
  | .delay n => .delay n

@[simp] theorem Event.untagged_withTag (dbg : Bool) (e : Event) : (e.withTag dbg).untagged = e.untagged := by
  cases e <;> rfl

theorem allTagged_map_withTag (dbg : Bool) (l : List Event) : allTagged dbg (l.map (Event.withTag dbg)) := by
  intro x y d h
  obtain ⟨e, -, he⟩ := List.mem_map.mp h
  cases e <;> cases he
  rfl

/-- The same state under another debug selection, its events so far tagged with it and put after an earlier trace. -/
def State.retold (dbg : Bool) (past : List Event) (s : State) : State :=
  { s with dbg := dbg, trace := s.trace.map (Event.withTag dbg) ++ past }

section Retold
variable (dbg : Bool) (past : List Event) (s : State)

@[simp] theorem State.retold_st : (s.retold dbg past).st = s.st := rfl

variable {dbg past s}

/-- A decision that both tellings take alike. -/
theorem ite_retold {p : Prop} [Decidable p] {t t' u u' : State} (yes : t' = t.retold dbg past)
    (no : u' = u.retold dbg past) : (if p then t' else u') = (if p then t else u).retold dbg past := by
  rw [yes, no, apply_ite (State.retold dbg past)]

variable (dbg past s)

theorem takeFault_retold (e : FaultFlag) :
    takeFault e (s.retold dbg past) = (takeFault e s).retold dbg past := by
  unfold takeFault
  cases e.releasesBus <;> rfl

theorem failedAttempt_retold (e : FaultFlag) (again : State → State)
    (h : ∀ t : State, again (t.retold dbg past) = (again t).retold dbg past) :
    failedAttempt e again (s.retold dbg past) = (failedAttempt e again s).retold dbg past :=
  ite_retold (takeFault_retold dbg past (s.setCnt (s.cnt - 1)) e) (h (s.setCnt (s.cnt - 1)))

theorem afterPoll_retold (c : Caller) : afterPoll c (s.retold dbg past) = (afterPoll c s).retold dbg past :=
  ite_retold rfl (ite_retold rfl rfl)

theorem framerTick_retold (c : Caller) (p : FPhase) :
    framerTick c p (s.retold dbg past) = (framerTick c p s).retold dbg past := by
  cases p with
  | assert | extra | clean | release => rfl
  | frame i => exact ite_retold rfl rfl
  | poll =>
    have answered := afterPoll_retold dbg past (((s.xfer s.cfg.filler).setN (s.n + 1)).setToken s.inByte true) c
    exact ite_retold (afterPoll_retold dbg past s c) (ite_retold rfl answered)

theorem enterOpcond_retold : enterOpcond (s.retold dbg past) = (enterOpcond s).retold dbg past :=
  ite_retold rfl rfl

theorem judgeLegacy_retold : judgeLegacy (s.retold dbg past) = (judgeLegacy s).retold dbg past := by
  unfold judgeLegacy
  change (match s.cfg.v1Policy with | .stop => _ | .legacyBranch => _) = _
  cases s.cfg.v1Policy with
  | stop => rfl
  | legacyBranch => exact enterOpcond_retold dbg past (recordEcho false s)

theorem judge_retold (c : Caller) : judge c (s.retold dbg past) = (judge c s).retold dbg past := by
  have fault := takeFault_retold dbg past s
  have again := failedAttempt_retold dbg past s
  cases c with
  | host | n11CrcOnOff | n11SetBlocklen => rfl
  | n4Idle => exact ite_retold rfl (fault .idleFailed)
  | n5IfCond =>
    have echoed := enterOpcond_retold dbg past (recordEcho (echoMatches s.cfg (heldAt s.xbuf 2) (heldAt s.xbuf 3)) s)
    exact ite_retold echoed (judgeLegacy_retold dbg past s)
  | n6OpcondHc => exact ite_retold rfl (again .opcondTimeout enterOpcondHc fun _ => rfl)
  | n6Ocr => exact ite_retold (fault .ocrTimeout) (ite_retold (fault .powerupNotConfirmed) rfl)
  | n7OpcondLegacy => exact ite_retold rfl (again .opcondTimeout enterOpcondLegacy fun _ => rfl)
  | n9CsdCmd => exact ite_retold rfl (again .csdTimeout (fun t => t.goto .n9Release) fun _ => rfl)
  | wCmd => exact ite_retold rfl (fault .writeCmdRejected)

/-- Every step of the block is the same step, told with the other selection and the other past. -/
theorem tick_retold : tick (s.retold dbg past) = (tick s).retold dbg past := by
  have again := failedAttempt_retold dbg past s
  rw [tick, tick, State.retold_st]
  cases s.st with
  | framer c p => exact framerTick_retold dbg past s c p
  | judge c => exact judge_retold dbg past s c
  | n2Present => exact ite_retold rfl (takeFault_retold dbg past s.sensePresent .noCard)
  | n2WriteProt => exact ite_retold (takeFault_retold dbg past s.senseWriteProt .writeProtected) rfl
  | n9CsdJudge => exact ite_retold rfl (again .csdTokenMissing (fun t => t.goto .n9CsdToken) fun _ => rfl)
  | wRespJudge => exact ite_retold rfl (takeFault_retold dbg past s .writeDataRejected)
  | wBusyJudge => exact ite_retold rfl (again .writeTimeout (fun t => t.goto .wBusy) fun _ => rfl)
  | _ => rfl

theorem runFor_retold (k : Nat) : runFor k (s.retold dbg past) = (runFor k s).retold dbg past := by
  induction k generalizing s with
  | zero => rfl
  | succ k ih =>
    rw [runFor, runFor, tick_retold, ih]
    exact ite_retold rfl rfl

theorem runToReturn_retold : runToReturn (s.retold dbg past) = (runToReturn s).retold dbg past :=
  runFor_retold dbg past s (ticksLeft s)

theorem State.untagged_retold :
    (s.retold dbg past).untagged = { s.untagged with trace := s.untagged.trace ++ past.map Event.untagged } := by
  simp [State.untagged, State.retold, Function.comp_def]

end Retold

/-- R119, of an instruction that with the debug selection `dbg` makes `run dbg` of the state `s`. -/
def DebugIsTag (s : State) (run : Bool → State) : Prop :=
  ∀ dbg, (run dbg).untagged = (run !dbg).untagged ∧ ∃ l, (run dbg).trace = l ++ s.trace ∧ allTagged dbg l

/-- An instruction that runs no operation issues no event, and none of its effect depends on the selection. -/
theorem DebugIsTag.const {s t : State} (silent : t.trace = s.trace) : DebugIsTag s fun _ => t :=
  fun dbg => ⟨rfl, [], silent, by simp [allTagged]⟩

/-- An operation whose start depends on the selection for what is told alone. -/
theorem DebugIsTag.of_start {s base : State} {start : Bool → State}
    (told : ∀ dbg, start dbg = base.retold dbg s.trace) : DebugIsTag s fun dbg => runToReturn (start dbg) := by
  have run (dbg : Bool) : runToReturn (start dbg) = (runToReturn base).retold dbg s.trace := by
    rw [told, runToReturn_retold]
  refine fun dbg => ⟨?_, _, congrArg State.trace (run dbg), allTagged_map_withTag dbg _⟩
  simp only [run, State.untagged_retold]

section FromRest
variable {s : State} (rest : s.AtRest)
include rest

theorem State.AtRest.not_busy : ¬ s.busy = true := by simp [State.busy, rest.idle]

/-- From rest, `WRITE` completes. -/
theorem exec_write_of_rest (sector : Word32) (dbg : Bool) :
    exec (.write sector dbg) s = .next (runToReturn (startWrite sector dbg s)) :=
  congrArg Host.Outcome.next (write_of_rest rest rfl)

theorem hostFrame_debugIsTag (idx : BitVec 6) (arg : Word32) (extra : Byte) :
    DebugIsTag s fun dbg => hostFrame idx arg extra dbg s := by
  by_cases tooMany : extraRefused s.cfg extra
  · simp only [hostFrame_of_tooMany rest.idle tooMany]
    exact .const rfl
  · have runs (dbg : Bool) : hostFrame idx arg extra dbg s = runToReturn (startCmd idx arg extra dbg s) := by
      rw [hostFrame, if_neg rest.not_busy, if_neg tooMany]
      exact runOn_undisturbed rest.undisturbed
    simp only [runs]
    exact .of_start (base := { startCmd idx arg extra false s with trace := [] }) fun _ => rfl

/-- Every instruction completes from rest, and the debug selection is a tag to it. -/
theorem exec_debugIsTag (i : Instr) :
    ∃ run, (∀ dbg, exec (i.withDebug dbg) s = .next (run dbg)) ∧ DebugIsTag s run := by
  cases i with
  | nop => exact ⟨_, fun _ => rfl, .const rfl⟩
  | init =>
    exact ⟨_, fun dbg => exec_init_of_rest dbg rest,
      .of_start (base := { startInit false s with trace := [] }) fun _ => rfl⟩
  | write sector =>
    exact ⟨_, exec_write_of_rest rest sector,
      .of_start (base := { startWrite sector false s with trace := [] }) fun _ => rfl⟩
  | _ => exact ⟨_, fun _ => rfl, hostFrame_debugIsTag rest _ _ _⟩

end FromRest

end Sys2Proof.Machine
end

section
/-! PROOF. The debug selection. -/

namespace Sys2Proof.Machine

/-- Settles O21: the two runs are one run, told with either selection after the trace of `s`. -/
theorem debugSelectionIsOnlyATag : Obligations.DebugSelectionIsOnlyATag := by
  unfold Obligations.DebugSelectionIsOnlyATag
  intro s i dbg rest
  obtain ⟨run, runs, tag⟩ := exec_debugIsTag rest i
  obtain ⟨same, l, events, tagged⟩ := tag dbg
  exact ⟨run dbg, run !dbg, l, runs dbg, runs !dbg, same, events, tagged⟩

end Sys2Proof.Machine
end

section
/-! SUPPORT. `INIT` runs as `Negotiate` (R140), part by part and the latest part first: the run from each named point of
the phase machine is that part of the pseudocode. -/

namespace Sys2Proof.Machine

section Call
variable (idx : BitVec 6) (arg : Word32) (extra : Byte) (s : State)

/-- A framer call runs as `TransmitCommand`, and then its caller judges what it left. -/
theorem run_call (c : Caller) :
    runToReturn (callFramer c idx arg extra s) = runToReturn (judge c (transmit idx arg extra s)) := by
  rw [run_callFramer, run_judge]

@[simp] theorem transmit_cnt : (transmit idx arg extra s).cnt = s.cnt := by
  obtain ⟨r, -, call⟩ := transmit_eq_afterCall idx arg extra s
  rw [call s rfl rfl]
  rfl

@[simp] theorem transmit_cfg : (transmit idx arg extra s).cfg = s.cfg := by
  obtain ⟨r, -, call⟩ := transmit_eq_afterCall idx arg extra s
  rw [call s rfl rfl]
  rfl

end Call

/-- A decision between two runs. -/
theorem run_ite {p : Prop} [Decidable p] {s t u v : State} (yes : runToReturn s = u) (no : runToReturn t = v) :
    runToReturn (if p then s else t) = if p then u else v := by
  rw [← yes, ← no, apply_ite runToReturn]

/-- The last phase. -/
theorem run_ready (s : State) : runToReturn (s.goto .n12Ready) = markReady s :=
  (run_tick s .n12Ready (markReady s) rfl).trans (runToReturn_finish _ _)

/-- Steps 11 and 12. -/
theorem run_housekeep (s : State) : runToReturn (enterCrcOnOff s) = negotiateHousekeep s := by
  rw [enterCrcOnOff, run_call, judge, enterSetBlocklen, run_call, judge, run_ready, transmit_cfg, negotiateHousekeep]

/-- The record bytes of step 9 from byte `i` on, `k` of them. -/
theorem run_readRecord (k : Nat) {i : Nat} {s : State} (left : s.cfg.csdLen = i + k) :
    runToReturn (s.goto (csdPhase s.cfg i)) = runToReturn ((readRecord k s).goto .n9CsdClean) := by
  induction k generalizing i s with
  | zero => rw [csdPhase, if_neg (by omega)]; rfl
  | succ k ih =>
    rw [csdPhase, if_pos (by omega), runToReturn_goto]
    exact ih (s := (s.xfer s.cfg.filler).setCsd (s.csd ++ [s.inByte])) (i := i + 1)
      (by rw [State.setCsd_cfg, State.xfer_cfg]; omega)

/-- The rest of step 9 and step 10, after the data-start token. -/
theorem run_record (s : State) :
    runToReturn (((s.setTimeoutCount s.cnt).setCsd []).goto (csdPhase s.cfg 0)) = negotiateRecord s := by
  let started := (s.setTimeoutCount s.cnt).setCsd []
  let read := readRecord s.cfg.csdLen started
  have cfg : read.cfg = s.cfg := by
    have kept (k : Nat) (u : State) : (readRecord k u).cfg = u.cfg := by
      induction k generalizing u with
      | zero => rfl
      | succ k ih => exact ih _
    exact kept _ _
  calc runToReturn (started.goto (csdPhase s.cfg 0))
      = runToReturn (read.goto .n9CsdClean) := run_readRecord s.cfg.csdLen (Nat.zero_add _).symm
    _ = runToReturn ((read.xfer read.cfg.filler).goto .n9CsdRelease) := run_tick _ _ _ rfl
    _ = runToReturn ((read.xfer read.cfg.filler).releaseBus.goto .n10Decode) := run_tick _ _ _ rfl
    _ = runToReturn (enterCrcOnOff (storeCapacity (read.xfer read.cfg.filler).releaseBus)) := run_tick _ _ _ rfl
    _ = negotiateRecord s := by rw [run_housekeep, cfg]; rfl

/-- The poll for the data-start token, entered with its bound in the counter. -/
theorem run_token (s : State) :
    runToReturn (((s.setTimeoutCount s.cnt).setCnt s.cfg.csdTokenRetry).goto .n9CsdToken) = negotiateToken s := by
  refine run_attempts .csdTokenMissing State.pollByte (fun t => t.b == t.cfg.tokenStart) negotiateRecord id
    (fun t => t.goto .n9CsdToken) (fun t => t.goto .n9CsdToken) (fun _ => rfl) (fun _ => rfl) (fun _ => rfl)
    (fun t => ?_) ((s.setTimeoutCount s.cnt).setCnt s.cfg.csdTokenRetry)
  have judged : runToReturn (t.pollByte.goto .n9CsdJudge) = runToReturn (judgeCsdToken t.pollByte) := by
    exact run_tick _ _ _ rfl
  rw [run_tick t .n9CsdToken (t.pollByte.goto .n9CsdJudge) rfl, judged]
  simp only [beq_iff_eq]
  exact run_ite (run_record _) rfl

/-- Steps 8 and 9. -/
theorem run_csd (s : State) : runToReturn (s.goto .n8Release) = negotiateCsd s := by
  let begun := ((s.releaseBus.setRate .medium).assertBus).setCnt s.cfg.csdCmdRetry
  have started : runToReturn (s.goto .n8Release) = runToReturn (enterSendCsd begun) :=
    calc runToReturn (s.goto .n8Release)
      _ = runToReturn (s.releaseBus.goto .n8Rate) := run_tick _ _ _ rfl
      _ = runToReturn ((s.releaseBus.setRate .medium).goto .n8Assert) := run_tick _ _ _ rfl
      _ = runToReturn (enterSendCsd begun) := run_tick _ _ _ rfl
  rw [started]
  refine run_attempts .csdTimeout (fun t => transmit t.cfg.idxSendCsd 0 extraMinusOne t)
    (fun t => isAccepted t.cfg t.r1 t.answered) negotiateToken (fun t => t.releaseBus.assertBus) enterSendCsd
    (fun t => t.goto .n9Release) (fun t => ?_) (fun t => transmit_cnt _ _ _ t) (fun _ => rfl) (fun t => ?_) begun
  · calc runToReturn (t.goto .n9Release)
      _ = runToReturn (t.releaseBus.goto .n9Reassert) := run_tick _ _ _ rfl
      _ = runToReturn (enterSendCsd t.releaseBus.assertBus) := run_tick _ _ _ rfl
  · rw [enterSendCsd, run_call]
    exact run_ite (run_token _) rfl

/-- Step 6, the OCR. -/
theorem run_ocr (s : State) : runToReturn (enterReadOcr (s.setTimeoutCount s.cnt)) = negotiateOcr s := by
  rw [enterReadOcr, run_call]
  exact run_ite (runToReturn_takeFault _ _) (run_ite (runToReturn_takeFault _ _) (run_csd _))

/-- Steps 6 and 7. -/
theorem run_opcond (s : State) : runToReturn (enterOpcond s) = negotiateOpcond s := by
  refine run_ite ?_ ?_
  · refine run_attempts .opcondTimeout (fun t => transmit t.cfg.idxSendOpCond t.cfg.hcsArg 0 t)
      (fun t => isReady t.cfg t.r1 t.answered) negotiateOcr id enterOpcondHc enterOpcondHc (fun _ => rfl)
      (fun t => transmit_cnt _ _ _ t) (fun _ => rfl) (fun t => ?_) (s.setCnt s.cfg.opcondRetry)
    rw [enterOpcondHc, run_call]
    exact run_ite (run_ocr _) rfl
  · refine run_attempts .opcondTimeout (fun t => transmit t.cfg.idxSendOpCond 0 0 t)
      (fun t => isReady t.cfg t.r1 t.answered) negotiateLegacyReady id enterOpcondLegacy enterOpcondLegacy
      (fun _ => rfl) (fun t => transmit_cnt _ _ _ t) (fun _ => rfl) (fun t => ?_) (s.setCnt s.cfg.opcondRetry)
    rw [enterOpcondLegacy, run_call]
    exact run_ite (run_csd _) rfl

/-- Step 5. -/
theorem run_ifCond (s : State) : runToReturn (enterIfCond s) = negotiateIfCond s := by
  rw [enterIfCond, run_call, negotiateIfCond]
  generalize transmit s.cfg.idxSendIfCond s.cfg.ifCondPattern s.cfg.respExtra s = t
  have legacy : runToReturn (judgeLegacy t) =
      match t.cfg.v1Policy with
      | .stop => returnInit (recordEcho false t)
      | .legacyBranch => negotiateOpcond (recordEcho false t) := by
    unfold judgeLegacy
    cases t.cfg.v1Policy with
    | stop => exact runToReturn_finish _ _
    | legacyBranch => exact run_opcond _
  exact run_ite (run_opcond _) legacy

/-- Step 4. -/
theorem run_idle (s : State) : runToReturn (enterGoIdle s) = negotiateIdle s := by
  rw [enterGoIdle, run_call]
  exact run_ite (run_ifCond _) (runToReturn_takeFault _ _)

/-- The priming bytes of step 3 from byte `i` on, `k` of them. -/
theorem run_priming (k : Nat) {i : Nat} {s : State} (left : s.cfg.primeBytes = i + k) :
    runToReturn (s.goto (primePhase s.cfg i)) =
      runToReturn ((sendAll (List.replicate k s.cfg.filler) s).goto .n3Assert) := by
  induction k generalizing i s with
  | zero => rw [primePhase, if_neg (by omega)]; rfl
  | succ k ih =>
    rw [primePhase, if_pos (by omega), runToReturn_goto]
    exact ih (s := s.xfer s.cfg.filler) (i := i + 1) (by rw [State.xfer_cfg]; omega)

/-- Step 3. -/
theorem run_prime (s : State) : runToReturn (s.goto .n3Rate) = negotiatePrime s :=
  let primed := sendAll (List.replicate s.cfg.primeBytes s.cfg.filler) (s.setRate .slow)
  calc runToReturn (s.goto .n3Rate)
    _ = runToReturn ((s.setRate .slow).goto (primePhase s.cfg 0)) := run_tick _ _ _ rfl
    _ = runToReturn (primed.goto .n3Assert) := run_priming s.cfg.primeBytes (Nat.zero_add _).symm
    _ = runToReturn (enterGoIdle primed.assertBus) := run_tick _ _ _ rfl
    _ = negotiatePrime s := run_idle _

/-- Step 2. -/
theorem run_sense (s : State) : runToReturn (s.goto .n2Present) = negotiateSense s := by
  have present : tick (s.goto .n2Present) =
      if s.presentBit then s.sensePresent.goto .n2WriteProt else takeFault .noCard s.sensePresent := rfl
  have protection (t : State) : tick (t.goto .n2WriteProt) =
      if t.writeProtBit then takeFault .writeProtected t.senseWriteProt else t.senseWriteProt.goto .n3Rate := rfl
  rw [runToReturn_goto, present, negotiateSense]
  cases s.presentBit with
  | false => exact runToReturn_takeFault _ _
  | true =>
    refine (runToReturn_goto _ _).trans ?_
    rw [protection]
    exact run_ite (runToReturn_takeFault _ _) (run_prime _)

/-- Steps 1 and 2, from the start of `INIT`: the power cycle. -/
theorem run_startInit (dbg : Bool) (s : State) :
    runToReturn (startInit dbg s) = negotiate (s.startOp 0b10 dbg) :=
  let begun := (s.startOp 0b10 dbg).setDev DeviceHandle.defaults
  calc runToReturn (begun.goto .n1PowerOff)
    _ = runToReturn (begun.powerOff.goto .n1WaitOff) := run_tick _ _ _ rfl
    _ = runToReturn ((begun.powerOff.delay s.cfg.tOffMs).goto .n1PowerOn) := run_tick _ _ _ rfl
    _ = runToReturn ((begun.powerOff.delay s.cfg.tOffMs).powerOn.goto .n1WaitOn) := run_tick _ _ _ rfl
    _ = runToReturn (((begun.powerOff.delay s.cfg.tOffMs).powerOn.delay s.cfg.tOnMs).goto .n2Present) :=
      run_tick _ _ _ rfl
    _ = negotiate (s.startOp 0b10 dbg) := run_sense _

end Sys2Proof.Machine
end

section
/-! PROOF. `INIT` is `Negotiate`. -/

namespace Sys2Proof.Machine

/-- Settles O23: the run from the start of `INIT`, part by part. -/
theorem initIsNegotiate : Obligations.InitIsNegotiate := by
  unfold Obligations.InitIsNegotiate
  intro s dbg rest
  rw [exec_init_of_rest dbg rest, run_startInit]

end Sys2Proof.Machine
end

section
/-! SUPPORT. The events of a run are at most as many as its steps (R8, R160). -/

namespace Sys2Proof.Machine

theorem AtMostOneEvent.length_le {s t : State} (h : AtMostOneEvent s t) : t.trace.length ≤ s.trace.length + 1 := by
  obtain same | ⟨e, one⟩ := h
  · rw [same]
    exact Nat.le_succ _
  · rw [one, List.length_cons]

theorem runFor_trace_length_le (k : Nat) (s : State) : (runFor k s).trace.length ≤ s.trace.length + k := by
  induction k generalizing s with
  | zero => exact Nat.le_refl _
  | succ k ih =>
    unfold runFor
    split
    · have rest := ih (tick s)
      have first := (tick_atMostOneEvent s).length_le
      omega
    · exact Nat.le_add_right _ _

end Sys2Proof.Machine
end

section
/-! PROOF. Every operation returns. -/

namespace Sys2Proof.Machine

/-- Settles O56: an idle block waits; a busy one runs `ticksLeft` steps, by then it has returned, and each step was at
most one event. -/
theorem everyOperationReturns : Obligations.EveryOperationReturns := by
  unfold Obligations.EveryOperationReturns
  intro s undisturbed
  let u : State := { s with done := false }
  have now : step s = .next (if u.busy then runOn u else u) := by simp [step, hostStep, undisturbed, u]
  refine ⟨_, now, ?_⟩
  cases busy : u.busy with
  | false => exact ⟨(State.busy_eq_false_iff u).mp busy, Nat.le_add_right _ _⟩
  | true =>
    rw [if_pos rfl, runOn_undisturbed (s := u) undisturbed]
    exact ⟨runToReturn_st u, runFor_trace_length_le (ticksLeft u) u⟩

end Sys2Proof.Machine
end

section
/-! SUPPORT. The judgements of steps 5, 6, 7 and 9 (R146, R147, R150, R152, R153), said once. -/

namespace Sys2Proof.Machine

theorem tick_of_judge {s : State} {c : Caller} (st : s.st = .judge c) : tick s = judge c s := by
  simp only [tick, st]

/-- R146: the pattern check of step 5 succeeds, which it can for a probe answered exactly "idle" only. -/
def State.probeEcho (s : State) : Bool :=
  isExactlyIdle s.cfg s.r1 s.answered && echoMatches s.cfg (heldAt s.xbuf 2) (heldAt s.xbuf 3)

/-- R146 under the default policy: all three cases enter step 6 or 7, by the echo that they record. -/
theorem judgeIfCond_of_legacyBranch {s : State} (policy : s.cfg.v1Policy = .legacyBranch) :
    judgeIfCond s = enterOpcond (recordEcho s.probeEcho s) := by
  unfold judgeIfCond judgeEcho judgeLegacy State.probeEcho
  rw [policy]
  cases isExactlyIdle s.cfg s.r1 s.answered <;> rfl

/-- R140: the echo selects step 6 or step 7. -/
theorem enterOpcond_recordEcho (e : Bool) (s : State) :
    enterOpcond (recordEcho e s) =
      callFramer (if e then .n6OpcondHc else .n7OpcondLegacy) s.cfg.idxSendOpCond (if e then s.cfg.hcsArg else 0) 0
        ((recordEcho e s).setCnt s.cfg.opcondRetry) := by
  cases e <;> rfl

theorem failedAttempt_cnt (e : FaultFlag) {again : State → State} {s : State}
    (next : ∀ t, (again t).cnt = t.cnt) : (failedAttempt e again s).cnt = s.cnt - 1 := by
  unfold failedAttempt
  split
  · rfl
  · exact next _

theorem failedAttempt_of_last (e : FaultFlag) (again : State → State) {s : State} (last : s.cnt = 1) :
    failedAttempt e again s = takeFault e (s.setCnt 0) := by
  unfold failedAttempt
  rw [last]
  exact if_pos rfl

theorem failedAttempt_of_not_last (e : FaultFlag) (again : State → State) {s : State} (more : s.cnt ≠ 1) :
    failedAttempt e again s = again (s.setCnt (s.cnt - 1)) :=
  if_neg fun zero => more (by simpa using congrArg (· + 1#16) zero)

/-- R147, R150: not ready is unanswered, or the idle bit set. -/
theorem isReady_iff (c : Config) (r1 : Byte) (answered : Bool) :
    isReady c r1 answered = true ↔ answered = true ∧ r1 &&& c.r1IdleBit = 0 := by
  simp [isReady, idleBit]

theorem isExactlyIdle_iff (c : Config) (r1 : Byte) (answered : Bool) :
    isExactlyIdle c r1 answered = true ↔ answered = true ∧ r1 = c.r1Idle := by
  simp [isExactlyIdle]

theorem isAccepted_iff (c : Config) (r1 : Byte) (answered : Bool) :
    isAccepted c r1 answered = true ↔ answered = true ∧ r1 = c.r1Accepted := by
  simp [isAccepted]

end Sys2Proof.Machine
end

section
/-! PROOF. The judgements of steps 5, 6, 7 and 9. -/

namespace Sys2Proof.Machine

/-- Settles O32: whatever the echo, step 6 or 7 is entered, and the three cases say what the echo is. -/
theorem stepFiveHasThreeCases : Obligations.StepFiveHasThreeCases := by
  unfold Obligations.StepFiveHasThreeCases
  intro s st standard
  have policy : s.cfg.v1Policy = .legacyBranch := by rw [standard]; rfl
  have judged : tick s = enterOpcond (recordEcho s.probeEcho s) :=
    (tick_of_judge st).trans (judgeIfCond_of_legacyBranch policy)
  have failed (h : s.probeEcho = false) : (tick s).st = .framer .n7OpcondLegacy .assert ∧ (tick s).arg = 0 ∧
      (tick s).echo = false ∧ (tick s).dev.legacy = true := by
    rw [judged, h, enterOpcond_recordEcho]
    exact ⟨rfl, rfl, rfl, Bool.or_true _⟩
  have echo {x2 x3 : Byte} (answered : s.answered = true) (idle : s.r1 = 0x01) (h2 : s.xbuf[2]? = some x2)
      (h3 : s.xbuf[3]? = some x3) : s.probeEcho = true ↔ x2 = 0x01 ∧ x3 = 0xAA := by
    simp [State.probeEcho, isExactlyIdle, echoMatches, heldAt, standard, answered, idle, h2, h3, Config.standard]
  refine ⟨?_, ?_, ?_, ?_, fun silent => failed ?_,
    fun answered idle x2 x3 h2 h3 => ⟨fun e2 e3 => ?_, fun ne => failed ?_⟩⟩
  · rw [judged, enterOpcond_recordEcho, standard]
    rfl
  · rw [judged, enterOpcond_recordEcho]
    rfl
  · rw [judged, enterOpcond_trace]
    rfl
  · rw [judged, enterOpcond_recordEcho, standard]
    rfl
  · have notIdle : ¬ isExactlyIdle s.cfg s.r1 s.answered = true := by
      rw [isExactlyIdle_iff, not_and_or, Bool.not_eq_true, standard]
      exact silent
    rw [State.probeEcho, Bool.eq_false_of_not_eq_true notIdle, Bool.false_and]
  · have matched : s.probeEcho = true := (echo answered idle h2 h3).mpr ⟨e2, e3⟩
    rw [judged, matched, enterOpcond_recordEcho, standard]
    exact ⟨rfl, rfl, rfl, Bool.or_false _⟩
  · rw [← Bool.not_eq_true, echo answered idle h2 h3, not_and_or]
    exact ne

/-- Settles O33: the two callers judge alike, and a failed attempt is the last exactly when the counter stands at 1. -/
theorem anOpcondAttempt : Obligations.AnOpcondAttempt := by
  unfold Obligations.AnOpcondAttempt
  intro s c caller st
  have judged : tick s = judge c s := tick_of_judge st
  refine ⟨fun answered clear => ?_, fun failed => ?_⟩
  · have ready : isReady s.cfg s.r1 s.answered = true := (isReady_iff _ _ _).mpr ⟨answered, clear⟩
    rw [judged]
    obtain rfl | rfl := caller
    · rw [judge, judgeOpcondHc, if_pos ready]
      exact ⟨rfl, fun _ => ⟨rfl, rfl, rfl, rfl⟩, nofun⟩
    · rw [judge, judgeOpcondLegacy, if_pos ready]
      exact ⟨rfl, nofun, fun _ => ⟨rfl, rfl⟩⟩
  · have notReady : ¬ isReady s.cfg s.r1 s.answered = true := by
      rw [isReady_iff, not_and_or, Bool.not_eq_true]
      exact failed
    have counted : tick s = failedAttempt .opcondTimeout
        (fun t => callFramer c t.cfg.idxSendOpCond (if c = .n6OpcondHc then t.cfg.hcsArg else 0) 0 t) s := by
      rw [judged]
      obtain rfl | rfl := caller
      · exact if_neg notReady
      · exact if_neg notReady
    refine ⟨?_, ?_, fun last => ?_, fun more => ?_⟩
    · rw [counted]
      exact failedAttempt_cnt _ fun _ => rfl
    · by_cases last : s.cnt = 1
      · rw [counted, failedAttempt_of_last _ _ last]
        rfl
      · rw [counted, failedAttempt_of_not_last _ _ last]
        rfl
    · rw [counted, failedAttempt_of_last _ _ last]
      exact ⟨rfl, rfl, rfl, rfl⟩
    · rw [counted, failedAttempt_of_not_last _ _ more]
      exact ⟨rfl, rfl, rfl, rfl⟩

/-- Settles O34: the judgement, and after a failed attempt that is not the last the two steps to the next frame. -/
theorem aSendCsdAttempt : Obligations.ASendCsdAttempt := by
  unfold Obligations.ASendCsdAttempt
  intro s st
  have judged : tick s = judgeSendCsd s := tick_of_judge st
  refine ⟨fun answered accepted => ?_, fun failed => ?_⟩
  · rw [judged, judgeSendCsd, if_pos ((isAccepted_iff _ _ _).mpr ⟨answered, accepted⟩)]
    exact ⟨rfl, rfl, rfl, rfl⟩
  · have notAccepted : ¬ isAccepted s.cfg s.r1 s.answered = true := by
      rw [isAccepted_iff, not_and_or, Bool.not_eq_true]
      exact failed
    have counted : tick s = failedAttempt .csdTimeout (fun t => t.goto .n9Release) s :=
      judged.trans (if_neg notAccepted)
    refine ⟨fun last => ?_, fun more => ?_⟩
    · rw [counted, failedAttempt_of_last _ _ last]
      exact ⟨rfl, rfl, rfl, rfl, Bool.and_false _⟩
    · rw [counted, failedAttempt_of_not_last _ _ more]
      exact ⟨rfl, rfl, rfl, rfl⟩

/-- Settles O35: the transfer, and the judgement of its byte in the step after it. -/
theorem aTokenPoll : Obligations.ATokenPoll := by
  unfold Obligations.ATokenPoll
  intro s st
  have polled : tick s = pollCsdToken s := by simp only [tick, st]
  have judged : tick (tick s) = judgeCsdToken (pollCsdToken s) := by rw [polled]; rfl
  have byte : (pollCsdToken s).b = s.env.xfer.nth 0 := Answers.peek_eq s.env.xfer
  refine ⟨?_, fun token => ?_, fun other => ?_⟩
  · rw [polled, ← byte]
    exact ⟨rfl, rfl, rfl, rfl⟩
  · have begun : tick (tick s) = (((pollCsdToken s).setTimeoutCount s.cnt).setCsd []).goto (csdPhase s.cfg 0) :=
      judged.trans (if_pos (byte.trans token))
    rw [begun, polled]
    exact ⟨rfl, rfl, rfl, rfl⟩
  · have counted : tick (tick s) =
        failedAttempt .csdTokenMissing (fun t => t.goto .n9CsdToken) (pollCsdToken s) :=
      judged.trans (if_neg fun token => other (byte.symm.trans token))
    refine ⟨?_, fun last => ?_, fun more => ?_⟩
    · rw [counted]
      exact failedAttempt_cnt _ fun _ => rfl
    · rw [counted, polled, failedAttempt_of_last _ _ (s := pollCsdToken s) last]
      exact ⟨rfl, rfl, rfl, rfl, Bool.and_false _⟩
    · rw [counted, polled, failedAttempt_of_not_last _ _ (s := pollCsdToken s) more]
      exact ⟨rfl, rfl, rfl⟩

end Sys2Proof.Machine
end

section
/-! SUPPORT. What a part of `Negotiate` has behind it and what it leaves: the events and answers since a state, the
counter of a bounded loop, and a framer call in these terms. -/

namespace Sys2Proof.Machine

/-- R142: the events of the power cycle, and the sensing of presence that follows it. -/
def Event.opensInit : Event → Bool
  | .pwrOff | .pwrOn | .sensePresent _ => true
  | .assert | .release | .xfer _ _ _ | .rate _ | .senseWp _ | .delay _ => false

theorem Event.opensInit_of_onBus {e : Event} (h : e.onBus = true) : e.opensInit = false := by
  cases e <;> simp_all [Event.onBus, Event.opensInit]

/-- `t` is a later moment of the same operation as `s`: the trace has grown, and the transceiver has given answers. -/
structure Since (s t : State) : Prop where
  cfg : t.cfg = s.cfg
  dbg : t.dbg = s.dbg
  xfer : ∃ k, t.env.xfer = s.env.xfer.skip k
  trace : s.trace <:+ t.trace

/-- The same, without an event of the power cycle or a sensing of presence. -/
structure Onward (s t : State) : Prop extends Since s t where
  opens : t.trace.countP Event.opensInit = s.trace.countP Event.opensInit

theorem Since.trans {s t u : State} (h : Since s t) (k : Since t u) : Since s u where
  cfg := k.cfg.trans h.cfg
  dbg := k.dbg.trans h.dbg
  xfer := by
    obtain ⟨m, hm⟩ := h.xfer
    obtain ⟨n, hn⟩ := k.xfer
    exact ⟨m + n, by rw [hn, hm, Answers.skip_skip]⟩
  trace := h.trace.trans k.trace

theorem Onward.trans {s t u : State} (h : Onward s t) (k : Onward t u) : Onward s u :=
  ⟨h.toSince.trans k.toSince, k.opens.trans h.opens⟩

/-- An update of registers. -/
theorem Onward.silent {s t : State} (cfg : t.cfg = s.cfg := by rfl) (dbg : t.dbg = s.dbg := by rfl)
    (env : t.env = s.env := by rfl) (trace : t.trace = s.trace := by rfl) : Onward s t where
  cfg := cfg
  dbg := dbg
  xfer := ⟨0, by rw [env, Answers.skip_zero]⟩
  trace := by rw [trace]
  opens := by rw [trace]

/-- Events of the bus, and the answers that come with them. -/
theorem Onward.of_onBus {s t : State} (k : Nat) (l : List Event) (onBus : ∀ e ∈ l, e.onBus = true)
    (trace : t.trace = l ++ s.trace) (xfer : t.env.xfer = s.env.xfer.skip k := by rfl)
    (cfg : t.cfg = s.cfg := by rfl) (dbg : t.dbg = s.dbg := by rfl) : Onward s t where
  cfg := cfg
  dbg := dbg
  xfer := ⟨k, xfer⟩
  trace := by
    rw [trace]
    exact List.suffix_append l s.trace
  opens := by
    have none : l.countP Event.opensInit = 0 :=
      List.countP_eq_zero.mpr fun e he => by simp [Event.opensInit_of_onBus (onBus e he)]
    rw [trace, List.countP_append, none, Nat.zero_add]

theorem Onward.emit (s : State) {e : Event} (other : e.opensInit = false := by rfl) : Onward s (s.emit e) where
  cfg := rfl
  dbg := rfl
  xfer := ⟨0, rfl⟩
  trace := List.suffix_cons e s.trace
  opens := List.countP_cons_of_neg (by simp [other])

theorem Onward.releaseBus (s : State) : Onward s s.releaseBus := (Onward.emit s (e := .release)).trans .silent

theorem Onward.assertBus (s : State) : Onward s s.assertBus := (Onward.emit s (e := .assert)).trans .silent

theorem Onward.setRate (s : State) (r : Rate) : Onward s (s.setRate r) := .emit s

theorem Onward.senseWriteProt (s : State) : Onward s s.senseWriteProt where
  cfg := rfl
  dbg := rfl
  xfer := ⟨0, rfl⟩
  trace := List.suffix_cons _ s.trace
  opens := List.countP_cons_of_neg (by simp [Event.opensInit])

@[simp] theorem State.afterSending_dev (s : State) (l : List Byte) : (s.afterSending l).dev = s.dev := rfl
@[simp] theorem State.afterSending_echo (s : State) (l : List Byte) : (s.afterSending l).echo = s.echo := rfl

theorem Onward.afterSending (s : State) (l : List Byte) : Onward s (s.afterSending l) :=
  .of_onBus l.length (exchange s.env.xfer s.dbg 0 l).reverse
    (fun e he => exchange_onBus _ _ _ _ e (List.mem_reverse.mp he)) rfl

theorem Onward.pollByte (s : State) : Onward s s.pollByte := by
  rw [State.pollByte_eq, State.xfer_eq]
  exact (Onward.afterSending s [s.cfg.filler]).trans .silent

theorem Onward.takeFault (e : FaultFlag) (s : State) : Onward s (takeFault e s) := by
  cases hr : e.releasesBus with
  | true => exact (Onward.releaseBus s).trans (.silent (trace := by simp [hr]))
  | false => exact .silent (trace := by simp [hr])

section Call
variable (idx : BitVec 6) (arg : Word32) (extra : Byte) (s : State)

theorem transmit_onward : Onward s (transmit idx arg extra s) := by
  obtain ⟨k, l, effect⟩ := transmit_effect idx arg extra s
  obtain ⟨f, n, r1, answered, xbuf, left⟩ := effect.state
  rw [left]
  exact .of_onBus k l effect.onBus rfl

@[simp] theorem transmit_echo : (transmit idx arg extra s).echo = s.echo := by
  obtain ⟨r, -, call⟩ := transmit_eq_afterCall idx arg extra s
  rw [call s rfl rfl]
  rfl

/-- R117: a call with a negative `extra` leaves the bus asserted. -/
@[simp] theorem transmit_busAsserted :
    (transmit idx arg extra s).busAsserted = decide (extraNegative extra) := by
  obtain ⟨r, -, call⟩ := transmit_eq_afterCall idx arg extra s
  rw [call s rfl rfl]
  rfl

theorem transmit_oneAssert :
    ∃ l, (transmit idx arg extra s).trace = l ++ s.trace ∧ l.count .assert = 1 := by
  obtain ⟨k, l, effect⟩ := transmit_effect idx arg extra s
  obtain ⟨f, n, r1, answered, xbuf, left⟩ := effect.state
  exact ⟨l, by rw [left], effect.oneAssert⟩

end Call

/-- R26: what a loop that ends by success leaves in `timeout_count`. -/
def LeftInTime (bound n : Count) : Prop := bound ≠ 0 → n ≠ 0 ∧ n ≤ bound

/-- R120: the counter of a loop with `k` attempts left. -/
def Counting (bound : Count) (k : Nat) (cnt : Count) : Prop := bound ≠ 0 → cnt.toNat = k ∧ k ≤ bound.toNat

theorem Counting.start (bound : Count) : Counting bound (attemptsLeft bound) bound := by
  intro positive
  rw [attemptsLeft, if_neg positive]
  exact ⟨rfl, Nat.le_refl _⟩

theorem Counting.pred {bound cnt : Count} {k : Nat} (h : Counting bound (k + 2) cnt) :
    Counting bound (k + 1) (cnt - 1) := by
  intro positive
  obtain ⟨now, fits⟩ := h positive
  bv_omega

theorem Counting.leftInTime {bound cnt : Count} {k : Nat} (h : Counting bound (k + 1) cnt) :
    LeftInTime bound cnt := by
  intro positive
  obtain ⟨now, fits⟩ := h positive
  bv_omega

/-- Somewhere between `s` and `t` the block sent `FILLER` for `n` bytes in a row, the first of them taking answer `k` of
those that were to come at `s`, and after these transfers came the events `after`. -/
def Exchanged (s t : State) (k n : Nat) (after : List Event) : Prop :=
  ∃ before, t.trace.reverse =
    s.trace.reverse ++ before ++ exchange s.env.xfer s.dbg k (List.replicate n s.cfg.filler) ++ after

/-- Seen from an earlier moment, `m` answers before. -/
theorem Exchanged.since {s x t : State} {k n m : Nat} {after : List Event} (h : Exchanged x t k n after)
    (since : Since s x) (answers : x.env.xfer = s.env.xfer.skip m) : Exchanged s t (m + k) n after := by
  obtain ⟨before, events⟩ := h
  obtain ⟨l, grown⟩ := since.trace
  refine ⟨l.reverse ++ before, ?_⟩
  rw [events, ← grown, answers, since.cfg, since.dbg, exchange_skip]
  simp

/-- Seen at a later moment. -/
theorem Exchanged.later {s t u : State} {k n : Nat} {after more : List Event} (h : Exchanged s t k n after)
    (trace : u.trace = more ++ t.trace) : Exchanged s u k n (after ++ more.reverse) := by
  obtain ⟨before, events⟩ := h
  exact ⟨before, by rw [trace, List.reverse_append, events, List.append_assoc]⟩

end Sys2Proof.Machine
end

section
/-! SUPPORT. The returns of `INIT` (R161): what each of them leaves, and a fault as one of them. -/

namespace Sys2Proof.Machine

/-- R149, R161: at `t` the capacity class is bit 6 of the byte that came first after the token of `READ_OCR`, the first
of the transfers that end just before the change to the medium rate, and its bit 7 is set. -/
def ClassRead (s t : State) : Prop :=
  0 < s.cfg.respExtra.toInt → (∀ p ∈ s.cfg.ocrAccept, p.2 = true) → ∃ k after,
    Exchanged s t k (extraCount s.cfg.respExtra + 1) (.release :: .release :: .rate .medium :: after) ∧
    ocrPoweredUp (s.env.xfer.nth k) = true ∧
    t.dev.capClass = CapClass.ofBit (ocrHighCapacity (s.env.xfer.nth k))

/-- R154, R155: the usable capacity is the decode of the bytes that came after the data-start token, followed by a
cleanup transfer, a `RELEASE` and so many framed commands. -/
def RecordRead (s t : State) (commands : Nat) : Prop :=
  ∃ k after, Exchanged s t k (s.cfg.csdLen + 2) (.release :: after) ∧ after.count .assert = commands ∧
    s.env.xfer.nth k = s.cfg.tokenStart ∧
    t.dev.usableCapacity = decodeCapacity (received s.env.xfer (k + 1) s.cfg.csdLen)

/-- `legacy` and `cap_class` from step 8 on. -/
structure ClassKnown (s t : State) : Prop where
  legacy : t.dev.legacy = !t.echo
  standard : t.dev.legacy = true → t.dev.capClass = .standard
  read : t.dev.legacy = false → ClassRead s t

theorem ClassRead.since {s x t : State} (h : ClassRead x t) (since : Since s x) : ClassRead s t := by
  intro positive answered
  obtain ⟨m, answers⟩ := since.xfer
  rw [ClassRead, since.cfg] at h
  obtain ⟨k, after, sent, powered, cls⟩ := h positive answered
  rw [answers, Answers.nth_skip] at powered cls
  exact ⟨m + k, after, sent.since since answers, powered, cls⟩

theorem RecordRead.since {s x t : State} {n : Nat} (h : RecordRead x t n) (since : Since s x) :
    RecordRead s t n := by
  obtain ⟨m, answers⟩ := since.xfer
  obtain ⟨k, after, sent, commands, token, capacity⟩ := h
  rw [since.cfg] at sent token capacity
  rw [answers] at token capacity
  rw [Answers.nth_skip] at token
  rw [received_skip] at capacity
  exact ⟨m + k, after, sent.since since answers, commands, token, capacity⟩

theorem RecordRead.later {s t u : State} {n : Nat} (h : RecordRead s t n) {l : List Event}
    (trace : u.trace = l ++ t.trace) (capacity : u.dev.usableCapacity = t.dev.usableCapacity) :
    RecordRead s u (n + l.count .assert) := by
  obtain ⟨k, after, sent, commands, token, decoded⟩ := h
  exact ⟨k, after ++ l.reverse, sent.later trace, by simp [commands], token, capacity.trans decoded⟩

theorem ClassKnown.since {s x t : State} (h : ClassKnown x t) (since : Since s x) : ClassKnown s t :=
  ⟨h.legacy, h.standard, fun hc => (h.read hc).since since⟩

/-- Later events and other fields do not bear on the class. -/
theorem ClassKnown.later {s t u : State} (h : ClassKnown s t) (trace : t.trace <:+ u.trace)
    (echo : u.echo = t.echo) (legacy : u.dev.legacy = t.dev.legacy) (cls : u.dev.capClass = t.dev.capClass) :
    ClassKnown s u where
  legacy := by rw [legacy, echo, h.legacy]
  standard := by
    rw [legacy, cls]
    exact h.standard
  read hc positive answered := by
    rw [legacy] at hc
    obtain ⟨more, grown⟩ := trace
    obtain ⟨k, after, sent, powered, read⟩ := h.read hc positive answered
    exact ⟨k, after ++ more.reverse, sent.later grown.symm, powered, cls.trans read⟩

/-- R161: what `INIT` leaves with the flag of this fault. -/
def AtFault (s t : State) : FaultFlag → Prop
  | .noCard | .writeProtected =>
    t.dev.legacy = false ∧ t.dev.capClass = .standard ∧ t.dev.status.timeoutCount = 0 ∧
      t.busAsserted = s.busAsserted
  | .idleFailed =>
    t.dev.legacy = false ∧ t.dev.capClass = .standard ∧ t.dev.status.timeoutCount = 0 ∧ t.busAsserted = false
  | .opcondTimeout =>
    (t.dev.legacy = !t.echo) ∧ t.dev.capClass = .standard ∧ t.dev.status.timeoutCount = 0 ∧ t.busAsserted = false
  | .ocrTimeout | .powerupNotConfirmed =>
    t.dev.legacy = false ∧ t.dev.capClass = .standard ∧ t.busAsserted = decide (extraNegative s.cfg.respExtra) ∧
      LeftInTime s.cfg.opcondRetry t.dev.status.timeoutCount
  | .csdTimeout | .csdTokenMissing =>
    ClassKnown s t ∧ t.dev.status.timeoutCount = 0 ∧ t.busAsserted = false
  | .writeCmdRejected | .writeDataRejected | .writeTimeout => False

/-- The returns of `INIT`: a fault and its flag alone, the return of `V1_POLICY = stop` (R146), and `ok` (R158). -/
inductive InitReturn (s t : State) : Prop
  | faulted (e : FaultFlag) (flags : ∀ e', t.dev.status.flag e' = decide (e' = e)) (ok : t.dev.status.ok = false)
      (fatal : t.dev.status.fatalCount = 1) (capacity : t.dev.usableCapacity = 0) (left : AtFault s t e)
  | stopped (policy : s.cfg.v1Policy = .stop) (flags : ∀ e', t.dev.status.flag e' = false)
      (ok : t.dev.status.ok = false) (capacity : t.dev.usableCapacity = 0) (legacy : t.dev.legacy = true)
      (cls : t.dev.capClass = .standard) (count : t.dev.status.timeoutCount = 0)
      (bus : t.busAsserted = decide (extraNegative s.cfg.respExtra))
  | ready (flags : ∀ e', t.dev.status.flag e' = false) (ok : t.dev.status.ok = true) (bus : t.busAsserted = false)
      (known : ClassKnown s t) (count : LeftInTime s.cfg.csdTokenRetry t.dev.status.timeoutCount)
      (record : RecordRead s t 2)

theorem AtFault.since {s x t : State} {e : FaultFlag} (h : AtFault x t e) (since : Since s x)
    (bus : x.busAsserted = s.busAsserted) : AtFault s t e := by
  cases e <;> simp only [AtFault, bus, since.cfg] at h ⊢
  case csdTimeout | csdTokenMissing =>
    obtain ⟨known, rest⟩ := h
    exact ⟨known.since since, rest⟩
  all_goals exact h

theorem InitReturn.since {s x t : State} (h : InitReturn x t) (since : Since s x)
    (bus : x.busAsserted = s.busAsserted) : InitReturn s t := by
  cases h with
  | faulted e flags ok fatal capacity left => exact .faulted e flags ok fatal capacity (left.since since bus)
  | stopped policy flags ok capacity legacy cls count bus' =>
    rw [since.cfg] at policy bus'
    exact .stopped policy flags ok capacity legacy cls count bus'
  | ready flags ok bus' known count record =>
    rw [since.cfg] at count
    exact .ready flags ok bus' (known.since since) count (record.since since)

/-- Before the return of `INIT`: no flag, no capacity, and this diagnostic count. -/
structure DeviceHandle.Unended (d : DeviceHandle) (n : Count) : Prop where
  status : d.status = StatusRecord.defaults.withTimeoutCount n := by rfl
  capacity : d.usableCapacity = 0 := by rfl

/-- From `s`, the rest of `INIT` issues no event of the power cycle and returns in one of the ways of R161. -/
structure Ends (s t : State) : Prop where
  onward : Onward s t
  returned : InitReturn s t

@[simp] theorem StatusRecord.defaults_flag (e : FaultFlag) : StatusRecord.defaults.flag e = false := by
  cases e <;> rfl

/-- A fault of `INIT` sets its flag alone. -/
theorem Ends.fault {s u : State} {n : Count} (e : FaultFlag) (onward : Onward s u) (unended : u.dev.Unended n)
    (left : AtFault s (takeFault e u) e) : Ends s (takeFault e u) where
  onward := onward.trans (.takeFault e u)
  returned := by
    have init : e.isWriteFault = false := by
      cases e <;> simp [AtFault, FaultFlag.isWriteFault] at left ⊢
    have unset : (StatusRecord.defaults.withTimeoutCount n).Unset := ⟨rfl, rfl, rfl, rfl, rfl⟩
    rw [← unended.status] at unset
    obtain ⟨fatal, ok, -⟩ := faultStatus_of_init init unset
    refine .faulted e (fun e' => ?_) ok fatal unended.capacity left
    simp [faultStatus, StatusRecord.raise_flag, unended.status]

end Sys2Proof.Machine
end

section
/-! SUPPORT. Steps 8 to 12 of `Negotiate`: every way to their end is a return of R161. -/

namespace Sys2Proof.Machine

@[simp] theorem markReady_trace (s : State) : (markReady s).trace = .release :: s.trace := rfl
@[simp] theorem markReady_dev (s : State) : (markReady s).dev = s.dev.withStatus (s.dev.status.withOk true) := rfl
@[simp] theorem markReady_echo (s : State) : (markReady s).echo = s.echo := rfl
@[simp] theorem markReady_busAsserted (s : State) : (markReady s).busAsserted = false := rfl

theorem Onward.markReady (s : State) : Onward s (markReady s) := (Onward.releaseBus s).trans .silent

section Housekeep
variable (s : State)

/-- Steps 11 and 12 issue two framed commands and a `Release()` (R156, R157, R158). -/
theorem negotiateHousekeep_trace : ∃ l, (negotiateHousekeep s).trace = l ++ s.trace ∧ l.count .assert = 2 := by
  obtain ⟨l, first, one⟩ := transmit_oneAssert s.cfg.idxCrcOnOff 0 0 s
  obtain ⟨m, second, one'⟩ :=
    transmit_oneAssert s.cfg.idxSetBlocklen s.cfg.blocklenArg 0 (transmit s.cfg.idxCrcOnOff 0 0 s)
  refine ⟨.release :: (m ++ l), ?_, by simp [one, one']⟩
  rw [negotiateHousekeep, markReady_trace, second, first, List.cons_append, List.append_assoc]

theorem negotiateHousekeep_dev : (negotiateHousekeep s).dev = s.dev.withStatus (s.dev.status.withOk true) := by
  rw [negotiateHousekeep, markReady_dev, transmit_dev, transmit_dev]

theorem negotiateHousekeep_echo : (negotiateHousekeep s).echo = s.echo := by
  rw [negotiateHousekeep, markReady_echo, transmit_echo, transmit_echo]

theorem negotiateHousekeep_busAsserted : (negotiateHousekeep s).busAsserted = false := by
  rw [negotiateHousekeep, markReady_busAsserted]

theorem negotiateHousekeep_ok : (negotiateHousekeep s).dev.status.ok = true := by
  rw [negotiateHousekeep_dev]
  rfl

theorem negotiateHousekeep_onward : Onward s (negotiateHousekeep s) :=
  ((transmit_onward _ _ _ s).trans (transmit_onward _ _ _ _)).trans (.markReady _)

end Housekeep

theorem readRecord_eq (k : Nat) (s : State) :
    readRecord k s =
      (s.afterSending (List.replicate k s.cfg.filler)).setCsd (s.csd ++ received s.env.xfer 0 k) := by
  induction k generalizing s with
  | zero => simp [readRecord, received, State.setCsd]
  | succ k ih =>
    rw [readRecord, ih]
    simp [State.xfer_eq, State.afterSending, State.setCsd, exchange, exchange_skip, received, received_skip,
      State.inByte, Answers.peek_eq, Nat.add_comm, List.replicate]

/-- R153, R154: the state after the poll that brought the data-start token, the record bytes, the cleanup transfer and
the `RELEASE`. -/
theorem record_received (k : Nat) (s : State) (c : Count) :
    ((readRecord k ((s.pollByte.setTimeoutCount c).setCsd [])).xfer s.cfg.filler).releaseBus =
      ((((s.afterSending (List.replicate (k + 2) s.cfg.filler)).setB (s.env.xfer.nth 0)).setTimeoutCount c).setCsd
        (received s.env.xfer 1 k)).releaseBus := by
  have bytes : List.replicate (k + 2) s.cfg.filler =
      [s.cfg.filler] ++ List.replicate k s.cfg.filler ++ [s.cfg.filler] := by
    rw [← List.replicate_one, List.replicate_append_replicate, List.replicate_append_replicate]
    congr 1
    omega
  have record : received (s.env.xfer.skip 1) 0 k = received s.env.xfer 1 k := received_skip s.env.xfer 1 0 k
  rw [readRecord_eq, bytes, ← State.afterSending_append, ← State.afterSending_append, ← record, State.pollByte_eq,
    State.xfer_eq, State.xfer_eq, State.inByte, Answers.peek_eq]
  rfl

/-- From step 8 on: no return yet, the class is known, and `timeout_count` is `n`. -/
structure Chosen (s u : State) (n : Count) : Prop where
  onward : Onward s u
  unended : u.dev.Unended n
  known : ClassKnown s u

theorem Chosen.later {s u v : State} {n : Count} (h : Chosen s u n) (onward : Onward u v)
    (echo : v.echo = u.echo := by rfl) (dev : v.dev = u.dev := by rfl) : Chosen s v n where
  onward := h.onward.trans onward
  unended := by
    rw [dev]
    exact h.unended
  known := h.known.later onward.trace echo (by rw [dev]) (by rw [dev])

theorem Chosen.counted {s u : State} {n : Count} (h : Chosen s u n) (c : Count) : Chosen s (u.setTimeoutCount c) c where
  onward := h.onward.trans .silent
  unended := by
    refine ⟨?_, h.unended.capacity⟩
    change u.dev.status.withTimeoutCount c = _
    rw [h.unended.status]
    rfl
  known := h.known.later List.suffix_rfl rfl rfl rfl

theorem Chosen.setCnt {s u : State} {n : Count} (h : Chosen s u n) (c : Count) : Chosen s (u.setCnt c) n :=
  h.later .silent

theorem Chosen.pollByte {s u : State} {n : Count} (h : Chosen s u n) : Chosen s u.pollByte n :=
  h.later (.pollByte u)

theorem Chosen.reassert {s u : State} {n : Count} (h : Chosen s u n) : Chosen s u.releaseBus.assertBus n :=
  (h.later (.releaseBus u)).later (.assertBus _)

/-- A fault of step 9. -/
theorem Chosen.fault {s u : State} {n : Count} (h : Chosen s u n) {e : FaultFlag}
    (step9 : e = .csdTimeout ∨ e = .csdTokenMissing) : Ends s (takeFault e u) := by
  have known : ClassKnown s (takeFault e u) := h.known.later (Onward.takeFault e u).trace rfl rfl rfl
  refine .fault e h.onward h.unended ?_
  obtain rfl | rfl := step9
  · exact ⟨known, rfl, Bool.and_false _⟩
  · exact ⟨known, rfl, Bool.and_false _⟩

/-- Steps 11 and 12, the record being decoded. -/
theorem negotiateHousekeep_ends {s u : State} {n : Count} (onward : Onward s u)
    (status : u.dev.status = StatusRecord.defaults.withTimeoutCount n) (known : ClassKnown s u)
    (count : LeftInTime s.cfg.csdTokenRetry n) (record : RecordRead s u 0) : Ends s (negotiateHousekeep u) := by
  have ready := negotiateHousekeep_onward u
  have dev := negotiateHousekeep_dev u
  obtain ⟨l, trace, two⟩ := negotiateHousekeep_trace u
  refine ⟨onward.trans ready,
    .ready (fun e => ?_) (negotiateHousekeep_ok u) (negotiateHousekeep_busAsserted u) ?_ ?_ ?_⟩
  · simp [dev, status]
  · exact known.later ready.trace (negotiateHousekeep_echo u) (by rw [dev]; rfl) (by rw [dev]; rfl)
  · rw [dev, status]
    exact count
  · have framed := record.later trace (by rw [dev]; rfl)
    rwa [two] at framed

/-- The state in which step 10 decodes the record, from the state before the poll that brings the data-start token. -/
def recordReceived (s : State) : State :=
  ((((s.afterSending (List.replicate (s.cfg.csdLen + 2) s.cfg.filler)).setB (s.env.xfer.nth 0)).setTimeoutCount
    s.cnt).setCsd (received s.env.xfer 1 s.cfg.csdLen)).releaseBus

theorem negotiateRecord_pollByte (s : State) :
    negotiateRecord s.pollByte = negotiateHousekeep (storeCapacity (recordReceived s)) := by
  have cfg : s.pollByte.cfg = s.cfg := rfl
  have cnt : s.pollByte.cnt = s.cnt := rfl
  rw [negotiateRecord, cfg, cnt, record_received, recordReceived]

theorem recordReceived_onward (s : State) : Onward s (recordReceived s) :=
  have sent := Onward.afterSending s (List.replicate (s.cfg.csdLen + 2) s.cfg.filler)
  have read : Onward _ ((((s.afterSending (List.replicate (s.cfg.csdLen + 2) s.cfg.filler)).setB
    (s.env.xfer.nth 0)).setTimeoutCount s.cnt).setCsd (received s.env.xfer 1 s.cfg.csdLen)) := sent.trans .silent
  read.trans (.releaseBus _)

section StoreCapacity
variable (s : State)

theorem storeCapacity_dev : (storeCapacity s).dev = s.dev.withCapacity (decodeCapacity s.csd) := rfl

@[simp] theorem storeCapacity_echo : (storeCapacity s).echo = s.echo := by simp [storeCapacity]

@[simp] theorem storeCapacity_trace : (storeCapacity s).trace = s.trace := by simp [storeCapacity]

theorem storeCapacity_onward : Onward s (storeCapacity s) :=
  .silent (by simp [storeCapacity]) (by simp [storeCapacity]) (by simp [storeCapacity]) (by simp)

end StoreCapacity

theorem storeCapacity_recordRead {s : State} (token : s.pollByte.b = s.cfg.tokenStart) :
    RecordRead s (storeCapacity (recordReceived s)) 0 := by
  have csd : (recordReceived s).csd = received s.env.xfer 1 s.cfg.csdLen := rfl
  refine ⟨0, [], ⟨[], ?_⟩, rfl, ?_, congrArg decodeCapacity csd⟩
  · simp [recordReceived, State.afterSending]
  · rw [← token]
    exact (Answers.peek_eq _).symm

theorem negotiateRecord_ends {s u : State} {n : Count} (h : Chosen s u n)
    (count : LeftInTime s.cfg.csdTokenRetry u.cnt) (token : u.pollByte.b = u.cfg.tokenStart) :
    Ends s (negotiateRecord u.pollByte) := by
  have decoded : Onward u (storeCapacity (recordReceived u)) :=
    (recordReceived_onward u).trans (storeCapacity_onward _)
  have echo : (recordReceived u).echo = u.echo := by simp [recordReceived]
  have dev : (recordReceived u).dev = u.dev.withStatus (u.dev.status.withTimeoutCount u.cnt) := by
    simp [recordReceived]
  rw [negotiateRecord_pollByte]
  refine negotiateHousekeep_ends (n := u.cnt) (h.onward.trans decoded) ?_ ?_ count
    ((storeCapacity_recordRead token).since h.onward.toSince)
  · rw [storeCapacity_dev, dev, h.unended.status]
    rfl
  · exact h.known.later decoded.trace ((storeCapacity_echo _).trans echo) (by simp [storeCapacity_dev, dev])
      (by simp [storeCapacity_dev, dev])

theorem negotiateToken_ends {s u : State} {n : Count} (h : Chosen s u n) : Ends s (negotiateToken u) := by
  have bound : u.cfg.csdTokenRetry = s.cfg.csdTokenRetry := by rw [h.onward.cfg]
  refine boundedLoop_induction
    (P := fun k v => Chosen s v u.cnt ∧ Counting s.cfg.csdTokenRetry k v.cnt) (Ends s)
    (fun k v hv good => ?_) (fun v hv _ => ?_) (fun k v hv _ => ?_) _ ?_
  · obtain ⟨chosen, counting⟩ := hv
    exact negotiateRecord_ends chosen counting.leftInTime (beq_iff_eq.mp good)
  · obtain ⟨chosen, -⟩ := hv
    exact (chosen.pollByte.setCnt _).fault (.inr rfl)
  · obtain ⟨chosen, counting⟩ := hv
    exact ⟨chosen.pollByte.setCnt _, counting.pred⟩
  · rw [bound]
    exact ⟨(h.counted u.cnt).setCnt _, .start _⟩

/-- Steps 8 and 9, the class being known after the `RATE` and `Assert()` of step 8. -/
theorem negotiateCsd_ends {s u : State} {n : Count} (h : Chosen s (u.releaseBus.setRate .medium).assertBus n) :
    Ends s (negotiateCsd u) := by
  have attempt {v : State} (chosen : Chosen s v n) : Chosen s (transmit v.cfg.idxSendCsd 0 extraMinusOne v) n :=
    chosen.later (transmit_onward _ _ _ v) (transmit_echo _ _ _ v) (transmit_dev _ _ _ v)
  refine boundedLoop_induction (P := fun _ v => Chosen s v n) (Ends s)
    (fun k v chosen _ => ?_) (fun v chosen _ => ?_) (fun k v chosen _ => ?_) _ ?_
  · exact negotiateToken_ends (attempt chosen)
  · exact ((attempt chosen).setCnt _).fault (.inl rfl)
  · exact ((attempt chosen).setCnt _).reassert
  · exact h.setCnt _

end Sys2Proof.Machine
end

section
/-! SUPPORT. Steps 3 to 7 of `Negotiate`, and the whole of it: every way to its end is a return of R161. -/

namespace Sys2Proof.Machine

/-- In steps 6 and 7: `dev` holds nothing but the result of the pattern check (R146). -/
structure Probed (s u : State) (e : Bool) : Prop where
  onward : Onward s u
  echo : u.echo = e
  dev : u.dev = DeviceHandle.defaults.withLegacy (!e)

theorem Probed.later {s u v : State} {e : Bool} (h : Probed s u e) (onward : Onward u v)
    (echo : v.echo = u.echo := by rfl) (dev : v.dev = u.dev := by rfl) : Probed s v e :=
  ⟨h.onward.trans onward, echo.trans h.echo, dev.trans h.dev⟩

theorem Probed.setCnt {s u : State} {e : Bool} (h : Probed s u e) (c : Count) : Probed s (u.setCnt c) e :=
  h.later .silent

theorem Probed.call {s u : State} {e : Bool} (h : Probed s u e) (idx : BitVec 6) (arg : Word32) (extra : Byte) :
    Probed s (transmit idx arg extra u) e :=
  h.later (transmit_onward _ _ _ u) (transmit_echo _ _ _ u) (transmit_dev _ _ _ u)

theorem takeFault_dev_of {s : State} {d : DeviceHandle} {e : FaultFlag} (dev : s.dev = d) :
    (takeFault e s).dev = d.withStatus (faultStatus e d.status) := by
  rw [takeFault_dev, dev]

/-- The loop of step 6 or 7, whose attempts differ in the argument and which goes on by `onGood`. -/
theorem opcondLoop_ends {s u : State} {e : Bool} (h : Probed s u e) (arg : State → Word32) {onGood : State → State}
    (good : ∀ v, Probed s v e → LeftInTime s.cfg.opcondRetry v.cnt → Ends s (onGood v)) :
    Ends s (boundedLoop u.cfg.opcondRetry .opcondTimeout (fun t => transmit t.cfg.idxSendOpCond (arg t) 0 t)
      (fun t => isReady t.cfg t.r1 t.answered) onGood id u) := by
  have bound : u.cfg.opcondRetry = s.cfg.opcondRetry := by rw [h.onward.cfg]
  refine boundedLoop_induction (P := fun k v => Probed s v e ∧ Counting s.cfg.opcondRetry k v.cnt) (Ends s)
    (fun k v hv _ => ?_) (fun v hv _ => ?_) (fun k v hv _ => ?_) _ ?_
  · obtain ⟨probed, counting⟩ := hv
    refine good _ (probed.call _ _ _) ?_
    rw [transmit_cnt]
    exact counting.leftInTime
  · obtain ⟨probed, -⟩ := hv
    obtain ⟨onward, echo, dev⟩ := (probed.call v.cfg.idxSendOpCond (arg v) 0).setCnt
      ((transmit v.cfg.idxSendOpCond (arg v) 0 v).cnt - 1)
    refine .fault (n := 0) .opcondTimeout onward (by rw [dev]; exact {}) ⟨?_, ?_, rfl, by simp⟩
    · rw [takeFault_dev_of dev, takeFault_echo, echo]
      rfl
    · rw [takeFault_dev_of dev]
      rfl
  · obtain ⟨probed, counting⟩ := hv
    refine ⟨(probed.call _ _ _).setCnt _, ?_⟩
    rw [id, State.setCnt_cnt, transmit_cnt]
    exact counting.pred
  · rw [bound]
    exact ⟨h.setCnt _, .start _⟩

/-- Steps 8 and 9 from a state in which step 7 has found the device ready. -/
theorem negotiateLegacyReady_ends {s u : State} (h : Probed s u false) : Ends s (negotiateLegacyReady u) := by
  obtain ⟨onward, echo, dev⟩ := h
  let chosen := (u.setTimeoutCount u.cnt).setDev ((u.setTimeoutCount u.cnt).dev.withCapClass .standard)
  have dev' : chosen.dev = (u.dev.withStatus (u.dev.status.withTimeoutCount u.cnt)).withCapClass .standard := rfl
  rw [dev] at dev'
  have known : Chosen s chosen u.cnt := by
    refine ⟨onward.trans .silent, by rw [dev']; exact {}, ⟨?_, fun _ => ?_, fun hc => ?_⟩⟩
    · simp [chosen, echo, dev]
    · rw [dev']
      rfl
    · rw [dev'] at hc
      cases hc
  exact negotiateCsd_ends (((known.later (.releaseBus _)).later (.setRate _ _)).later (.assertBus _))

/-- R148, R149: with the conditions of R161, `READ_OCR` passed because it was answered, and then the byte that step 6
examines came first after its token. -/
theorem transmit_readOcr {u : State} (positive : 0 < u.cfg.respExtra.toInt)
    (answered : ∀ p ∈ u.cfg.ocrAccept, p.2 = true) {idx : BitVec 6} {arg : Word32} {t : State}
    (call : transmit idx arg u.cfg.respExtra u = t) (accepted : ocrAccepts t.cfg t.r1 t.answered = true) :
    ∃ k, Exchanged u t k (extraCount u.cfg.respExtra + 1) [.release] ∧ heldAt t.xbuf 0 = u.env.xfer.nth k := by
  have nonnegative : ¬ extraNegative u.cfg.respExtra := by
    unfold extraNegative
    omega
  obtain silent | ⟨j, inTime, before, token⟩ := poll_cases u.env.xfer u.cfg.filler u.cfg.cmdRetry.toNat
  · rw [transmit_of_silent idx arg u.cfg.respExtra silent] at call
    subst call
    have pass : (u.cfg.filler, false) ∈ u.cfg.ocrAccept := List.contains_iff_mem.mp accepted
    cases answered _ pass
  · rw [transmit_of_token idx arg u.cfg.respExtra inTime before token] at call
    subst call
    refine ⟨7 + j, ⟨.assert :: exchange u.env.xfer u.dbg 0
      ((buildFrame u.cfg idx arg).toList ++ List.replicate (j + 1) u.cfg.filler), ?_⟩, ?_⟩
    · have fillers : j + 1 + extraCount u.cfg.respExtra + cleanups u.cfg.respExtra =
          (j + 1) + (extraCount u.cfg.respExtra + 1) := by
        rw [cleanups, if_neg nonnegative]
        omega
      have start : 0 + ((buildFrame u.cfg idx arg).toList ++ List.replicate (j + 1) u.cfg.filler).length = 7 + j := by
        rw [List.length_append, buildFrame_length, List.length_replicate]
        omega
      rw [State.afterCall_trace_reverse, if_neg nonnegative, Reply.sent, Reply.atPoll, fillers,
        ← List.replicate_append_replicate, ← List.append_assoc, exchange_append, start]
      simp
    · obtain ⟨m, extras⟩ : ∃ m, extraCount u.cfg.respExtra = m + 1 := by
        refine ⟨extraCount u.cfg.respExtra - 1, ?_⟩
        unfold extraCount
        omega
      simp [State.afterCall, Reply.atPoll, extras, received, heldAt]

/-- After `READ_OCR`, with what `transmit_readOcr` says of the byte that step 6 examines. -/
structure OcrRead (s t : State) (n : Count) : Prop where
  onward : Onward s t
  echo : t.echo = true
  dev : t.dev = DeviceHandle.defaults.withStatus (StatusRecord.defaults.withTimeoutCount n)
  bus : t.busAsserted = decide (extraNegative s.cfg.respExtra)
  byte : ocrAccepts t.cfg t.r1 t.answered = true →
    0 < s.cfg.respExtra.toInt → (∀ p ∈ s.cfg.ocrAccept, p.2 = true) →
      ∃ k, Exchanged s t k (extraCount s.cfg.respExtra + 1) [.release] ∧ heldAt t.xbuf 0 = s.env.xfer.nth k

theorem Probed.readOcr {s u : State} (h : Probed s u true) :
    OcrRead s (transmit u.cfg.idxReadOcr 0 u.cfg.respExtra (u.setTimeoutCount u.cnt)) u.cnt := by
  obtain ⟨onward, echo, dev⟩ := h
  have counted : Onward s (u.setTimeoutCount u.cnt) := onward.trans .silent
  generalize call : transmit u.cfg.idxReadOcr 0 u.cfg.respExtra (u.setTimeoutCount u.cnt) = t
  refine ⟨counted.trans ?_, ?_, ?_, ?_, fun accepted positive answered => ?_⟩
  · rw [← call]
    exact transmit_onward _ _ _ _
  · rw [← call, transmit_echo]
    exact echo
  · rw [← call, transmit_dev, State.setTimeoutCount_eq, State.withStatus_dev, dev]
    rfl
  · rw [← call, transmit_busAsserted, onward.cfg]
  · rw [← onward.cfg] at positive answered ⊢
    obtain ⟨k, sent, byte⟩ := transmit_readOcr (u := u.setTimeoutCount u.cnt) positive answered call accepted
    obtain ⟨m, answers⟩ := counted.xfer
    rw [answers, Answers.nth_skip] at byte
    exact ⟨m + k, sent.since counted.toSince answers, byte⟩

section OcrRead
variable {s t : State} {n : Count} (h : OcrRead s t n)
include h

theorem OcrRead.fault (count : LeftInTime s.cfg.opcondRetry n) {e : FaultFlag}
    (step6 : e = .ocrTimeout ∨ e = .powerupNotConfirmed) : Ends s (takeFault e t) := by
  have dev := takeFault_dev_of (e := e) h.dev
  have bus : (takeFault e t).busAsserted = (decide (extraNegative s.cfg.respExtra) && !e.releasesBus) := by
    rw [takeFault_busAsserted, h.bus]
  refine .fault e h.onward (by rw [h.dev]; exact {}) ?_
  obtain rfl | rfl := step6
  · exact ⟨by rw [dev]; rfl, by rw [dev]; rfl, bus.trans (Bool.and_true _), by rw [dev]; exact count⟩
  · exact ⟨by rw [dev]; rfl, by rw [dev]; rfl, bus.trans (Bool.and_true _), by rw [dev]; exact count⟩

theorem OcrRead.chosen (accepted : ocrAccepts t.cfg t.r1 t.answered = true)
    (powered : ocrPoweredUp (heldAt t.xbuf 0) = true) :
    Ends s (negotiateCsd (t.setDev (t.dev.withCapClass (CapClass.ofBit (ocrHighCapacity (heldAt t.xbuf 0)))))) := by
  let chosen := t.setDev (t.dev.withCapClass (CapClass.ofBit (ocrHighCapacity (heldAt t.xbuf 0))))
  let begun := (chosen.releaseBus.setRate .medium).assertBus
  have dev : begun.dev = t.dev.withCapClass (CapClass.ofBit (ocrHighCapacity (heldAt t.xbuf 0))) := rfl
  have onward : Onward t begun :=
    have released : Onward t chosen.releaseBus := Onward.trans (t := chosen) .silent (.releaseBus _)
    (released.trans (.setRate _ _)).trans (.assertBus _)
  have legacy : begun.dev.legacy = false := by
    rw [dev, h.dev]
    rfl
  have echo : begun.echo = true := by simp [begun, chosen, h.echo]
  refine negotiateCsd_ends (n := n)
    ⟨h.onward.trans onward, ?_, ?_, fun notLegacy => ?_, fun _ positive answered => ?_⟩
  · rw [dev, h.dev]
    exact {}
  · rw [legacy, echo]
    rfl
  · rw [legacy] at notLegacy
    cases notLegacy
  · obtain ⟨k, sent, byte⟩ := h.byte accepted positive answered
    rw [byte] at powered
    refine ⟨k, [.assert], sent.later (u := begun) (more := [.assert, .rate .medium, .release]) rfl, powered, ?_⟩
    rw [← byte]
    rfl

end OcrRead

/-- Step 6, the OCR: the two faults, or the class on the high-capacity branch. -/
theorem negotiateOcr_ends {s u : State} (h : Probed s u true) (count : LeftInTime s.cfg.opcondRetry u.cnt) :
    Ends s (negotiateOcr u) := by
  have read := h.readOcr
  unfold negotiateOcr
  generalize transmit u.cfg.idxReadOcr 0 u.cfg.respExtra (u.setTimeoutCount u.cnt) = t at read ⊢
  simp only
  split
  · exact read.fault count (.inl rfl)
  · next passed =>
    split
    · exact read.fault count (.inr rfl)
    · next powered => exact read.chosen (by simpa using passed) (by simpa using powered)

/-- Steps 6 and 7, by the echo. -/
theorem negotiateOpcond_ends {s u : State} {e : Bool} (h : Probed s u e) : Ends s (negotiateOpcond u) := by
  unfold negotiateOpcond
  rw [h.echo]
  cases e with
  | true => exact opcondLoop_ends h (fun t => t.cfg.hcsArg) fun v => negotiateOcr_ends
  | false => exact opcondLoop_ends h (fun _ => 0) fun v probed _ => negotiateLegacyReady_ends probed

/-- In steps 3 to 5: `dev` is at its defaults. -/
structure Unprobed (s u : State) : Prop where
  onward : Onward s u
  dev : u.dev = DeviceHandle.defaults

theorem Unprobed.call {s u : State} (h : Unprobed s u) (idx : BitVec 6) (arg : Word32) (extra : Byte) :
    Unprobed s (transmit idx arg extra u) :=
  ⟨h.onward.trans (transmit_onward _ _ _ u), (transmit_dev _ _ _ u).trans h.dev⟩

theorem Unprobed.recordEcho {s u : State} (h : Unprobed s u) (e : Bool) : Probed s (recordEcho e u) e where
  onward := h.onward.trans .silent
  echo := rfl
  dev := by
    change u.dev.withLegacy (u.dev.legacy || !e) = _
    rw [h.dev]
    rfl

/-- Step 5: the two branches, and under `V1_POLICY = stop` a return (R146). -/
theorem negotiateIfCond_ends {s u : State} (h : Unprobed s u) : Ends s (negotiateIfCond u) := by
  have probe := h.call u.cfg.idxSendIfCond u.cfg.ifCondPattern u.cfg.respExtra
  have bus : (transmit u.cfg.idxSendIfCond u.cfg.ifCondPattern u.cfg.respExtra u).busAsserted =
      decide (extraNegative s.cfg.respExtra) := by
    rw [transmit_busAsserted, h.onward.cfg]
  unfold negotiateIfCond
  generalize transmit u.cfg.idxSendIfCond u.cfg.ifCondPattern u.cfg.respExtra u = t at probe bus ⊢
  simp only
  split
  · exact negotiateOpcond_ends (probe.recordEcho _)
  · split
    · next policy =>
      obtain ⟨onward, -, dev⟩ := probe.recordEcho false
      have dev' : (returnInit (recordEcho false t)).dev = DeviceHandle.defaults.withLegacy true := dev
      refine ⟨onward.trans .silent, .stopped (by rwa [probe.onward.cfg] at policy) (fun e => ?_) ?_ ?_ ?_ ?_ ?_ ?_⟩
      · rw [dev']
        cases e <;> rfl
      case refine_7 => exact bus
      all_goals
        rw [dev']
        rfl
    · exact negotiateOpcond_ends (probe.recordEcho false)

/-- Step 4. -/
theorem negotiateIdle_ends {s u : State} (h : Unprobed s u) : Ends s (negotiateIdle u) := by
  have idle := h.call u.cfg.idxGoIdleState 0 0
  have bus := transmit_busAsserted u.cfg.idxGoIdleState 0 0 u
  unfold negotiateIdle
  generalize transmit u.cfg.idxGoIdleState 0 0 u = t at idle bus ⊢
  simp only
  split
  · exact negotiateIfCond_ends idle
  · have dev := takeFault_dev_of (e := .idleFailed) idle.dev
    exact .fault (n := 0) .idleFailed idle.onward (by rw [idle.dev]; exact {})
      ⟨by rw [dev]; rfl, by rw [dev]; rfl, by rw [dev]; rfl, by simp [bus]⟩

/-- Step 3. -/
theorem negotiatePrime_ends {s : State} (dev : s.dev = DeviceHandle.defaults) : Ends s (negotiatePrime s) := by
  let bytes := List.replicate s.cfg.primeBytes s.cfg.filler
  have primed : Onward s (sendAll bytes (s.setRate .slow)).assertBus := by
    rw [sendAll_eq]
    exact ((Onward.setRate s .slow).trans (.afterSending _ bytes)).trans (.assertBus _)
  have dev' : (sendAll bytes (s.setRate .slow)).assertBus.dev = s.dev := by simp [sendAll_eq]
  exact negotiateIdle_ends ⟨primed, dev'.trans dev⟩

/-- The returns of step 2, with `dev` at its defaults but for the flag, and the bus as it was (R143). -/
theorem Ends.absent {s u : State} {e : FaultFlag} (sensed : e = .noCard ∨ e = .writeProtected) (onward : Onward s u)
    (dev : u.dev = DeviceHandle.defaults) (bus : u.busAsserted = s.busAsserted) : Ends s (takeFault e u) := by
  have dev' := takeFault_dev_of (e := e) dev
  obtain ⟨legacy, cls⟩ : (takeFault e u).dev.legacy = false ∧ (takeFault e u).dev.capClass = .standard := by
    rw [dev']
    exact ⟨rfl, rfl⟩
  have count : (takeFault e u).dev.status.timeoutCount = 0 := by
    rw [dev']
    obtain rfl | rfl := sensed <;> rfl
  have bus' : (takeFault e u).busAsserted = s.busAsserted := by
    rw [takeFault_busAsserted, bus]
    obtain rfl | rfl := sensed <;> exact Bool.and_true _
  refine .fault (n := 0) e onward (by rw [dev]; exact {}) ?_
  obtain rfl | rfl := sensed <;> exact ⟨legacy, cls, count, bus'⟩

/-- Steps 2 to 12, from the sensing of presence. -/
theorem negotiateSense_ends {s : State} (dev : s.dev = DeviceHandle.defaults) :
    Ends s.sensePresent (negotiateSense s) := by
  have sensed := Onward.senseWriteProt s.sensePresent
  have dev' : s.sensePresent.senseWriteProt.dev = DeviceHandle.defaults := by simp [dev]
  have bus : s.sensePresent.senseWriteProt.busAsserted = s.sensePresent.busAsserted := by simp
  unfold negotiateSense
  split
  · exact .absent (.inl rfl) .silent (by simp [dev]) rfl
  · split
    · exact .absent (.inr rfl) sensed dev' bus
    · obtain ⟨onward, returned⟩ := negotiatePrime_ends dev'
      exact ⟨sensed.trans onward, returned.since sensed.toSince bus⟩

/-- R142: the state after the power cycle. -/
def State.powerCycled (s : State) : State :=
  ((((s.setDev DeviceHandle.defaults).powerOff.delay s.cfg.tOffMs).powerOn).delay s.cfg.tOnMs)

theorem negotiate_eq (s : State) : negotiate s = negotiateSense s.powerCycled := rfl

theorem negotiate_ends (s : State) : Ends s.powerCycled.sensePresent (negotiate s) := negotiateSense_ends rfl

theorem powerCycled_trace (s : State) :
    s.powerCycled.sensePresent.trace = [.sensePresent (s.env.present.nth 0), .delay s.cfg.tOnMs, .pwrOn,
      .delay s.cfg.tOffMs, .pwrOff] ++ s.trace := by
  simp [State.powerCycled, State.presentBit, Answers.peek_eq]

theorem powerCycled_since (s : State) : Since s s.powerCycled.sensePresent where
  cfg := by simp [State.powerCycled]
  dbg := by simp [State.powerCycled]
  xfer := ⟨0, by simp [State.powerCycled]⟩
  trace := by
    rw [powerCycled_trace]
    exact List.suffix_append _ _

theorem negotiate_returned (s : State) : InitReturn s (negotiate s) :=
  (negotiate_ends s).returned.since (powerCycled_since s) (by simp [State.powerCycled])

end Sys2Proof.Machine
end

section
/-! SUPPORT. The returns of `INIT`, read off the flags; and the two returns of step 2. -/

namespace Sys2Proof.Machine

section Returned
variable {s t : State} (h : InitReturn s t)
include h

theorem InitReturn.atFault {e : FaultFlag} (flag : t.dev.status.flag e = true) : AtFault s t e := by
  cases h with
  | faulted e' flags _ _ _ left =>
    have same : e = e' := by simpa [flags] using flag
    rw [same]
    exact left
  | stopped _ flags => simp [flags] at flag
  | ready flags => simp [flags] at flag

/-- `ok` (R158). -/
theorem InitReturn.atOk (ok : t.dev.status.ok = true) : ClassKnown s t ∧ t.busAsserted = false ∧
    LeftInTime s.cfg.csdTokenRetry t.dev.status.timeoutCount ∧ RecordRead s t 2 := by
  cases h with
  | ready _ _ bus known count record => exact ⟨known, bus, count, record⟩
  | faulted _ _ no => simp [ok] at no
  | stopped _ _ no => simp [ok] at no

/-- The return without `ok` and without a flag is that of R146. -/
theorem InitReturn.atStop (ok : t.dev.status.ok = false) (fatal : t.dev.status.fatalCount = 0) :
    s.cfg.v1Policy = .stop ∧ t.dev.legacy = true ∧ t.dev.capClass = .standard ∧ t.dev.status.timeoutCount = 0 ∧
      t.busAsserted = decide (extraNegative s.cfg.respExtra) := by
  cases h with
  | stopped policy _ _ _ legacy cls count bus => exact ⟨policy, legacy, cls, count, bus⟩
  | faulted _ _ _ one => simp [fatal] at one
  | ready _ yes => simp [ok] at yes

theorem InitReturn.capacity_of_not_ok (ok : t.dev.status.ok = false) : t.dev.usableCapacity = 0 := by
  cases h with
  | faulted _ _ _ _ capacity => exact capacity
  | stopped _ _ _ capacity => exact capacity
  | ready _ yes => simp [ok] at yes

theorem InitReturn.atCsdFault
    (flag : t.dev.status.csdTimeout = true ∨ t.dev.status.csdTokenMissing = true) :
    ClassKnown s t ∧ t.dev.status.timeoutCount = 0 ∧ t.busAsserted = false :=
  flag.elim (h.atFault (e := .csdTimeout)) (h.atFault (e := .csdTokenMissing))

theorem InitReturn.atOcrFault
    (flag : t.dev.status.ocrTimeout = true ∨ t.dev.status.powerupNotConfirmed = true) :
    t.dev.legacy = false ∧ t.dev.capClass = .standard ∧ t.busAsserted = decide (extraNegative s.cfg.respExtra) ∧
      LeftInTime s.cfg.opcondRetry t.dev.status.timeoutCount :=
  flag.elim (h.atFault (e := .ocrTimeout)) (h.atFault (e := .powerupNotConfirmed))

theorem InitReturn.classKnown (flag : t.dev.status.csdTimeout = true ∨ t.dev.status.csdTokenMissing = true ∨
    t.dev.status.ok = true) : ClassKnown s t := by
  obtain flag | flag | ok := flag
  · exact (h.atCsdFault (.inl flag)).1
  · exact (h.atCsdFault (.inr flag)).1
  · exact (h.atOk ok).1

end Returned

theorem CapClass.ofBit_eq_high_iff (b : Bool) : CapClass.ofBit b = .high ↔ b = true := by cases b <;> decide

section Sensed
variable {s : State}

/-- R143: an absent device. -/
theorem negotiate_of_absent (absent : s.env.present.nth 0 = false) :
    negotiate s = takeFault .noCard s.powerCycled.sensePresent := by
  have sensed : s.powerCycled.presentBit = false := (Answers.peek_eq _).trans absent
  rw [negotiate_eq, negotiateSense, sensed]
  exact if_pos rfl

/-- R143: a protected device. -/
theorem negotiate_of_protected (present : s.env.present.nth 0 = true) (locked : s.env.writeProt.nth 0 = true) :
    negotiate s = takeFault .writeProtected s.powerCycled.sensePresent.senseWriteProt := by
  have sensed : s.powerCycled.presentBit = true := (Answers.peek_eq _).trans present
  have sensed' : s.powerCycled.sensePresent.writeProtBit = true := (Answers.peek_eq _).trans locked
  rw [negotiate_eq, negotiateSense, sensed, sensed']
  exact (if_neg nofun).trans (if_pos rfl)

end Sensed

end Sys2Proof.Machine
end

section
/-! PROOF. How `INIT` begins, and how it returns. -/

namespace Sys2Proof.Machine

/-- Settles O24: after the sensing of presence no event opens `INIT` again. -/
theorem initBeginsWithThePowerCycle : Obligations.InitBeginsWithThePowerCycle := by
  unfold Obligations.InitBeginsWithThePowerCycle
  intro s dbg rest
  obtain ⟨⟨-, -, -, l, later⟩, opens⟩ := (negotiate_ends (s.startOp 0b10 dbg)).onward
  rw [← later, List.countP_append, Nat.add_eq_right] at opens
  have absent (e : Event) (he : e.opensInit = true) : e ∉ l.reverse := fun mem =>
    List.countP_eq_zero.mp opens e (List.mem_reverse.mp mem) he
  refine ⟨_, l.reverse, initIsNegotiate s dbg rest, ?_, absent _ rfl, absent _ rfl, fun b => absent _ rfl⟩
  rw [← later, powerCycled_trace]
  simp

/-- Settles O25: the two returns of step 2. -/
theorem absentAndProtectedDevicesEndInit : Obligations.AbsentAndProtectedDevicesEndInit := by
  unfold Obligations.AbsentAndProtectedDevicesEndInit
  intro s dbg rest
  have trace := powerCycled_trace (s.startOp 0b10 dbg)
  refine ⟨fun absent => ⟨_, initIsNegotiate s dbg rest, ?_⟩,
    fun present locked => ⟨_, initIsNegotiate s dbg rest, ?_⟩⟩
  · rw [negotiate_of_absent (s := s.startOp 0b10 dbg) absent]
    refine ⟨?_, rfl, Bool.and_true _, rfl, rfl, rfl⟩
    have sensed : (takeFault .noCard (s.startOp 0b10 dbg).powerCycled.sensePresent).trace =
        (s.startOp 0b10 dbg).powerCycled.sensePresent.trace := rfl
    rw [sensed, trace]
    simp [absent]
  · rw [negotiate_of_protected (s := s.startOp 0b10 dbg) present locked]
    refine ⟨?_, rfl, Bool.and_true _, rfl, rfl⟩
    have sensed : (takeFault .writeProtected (s.startOp 0b10 dbg).powerCycled.sensePresent.senseWriteProt).trace =
        .senseWp (s.env.writeProt.nth 0) :: (s.startOp 0b10 dbg).powerCycled.sensePresent.trace :=
      congrArg (Event.senseWp · :: _) (Answers.peek_eq _)
    rw [sensed, trace]
    simp [present, locked]

/-- Settles O28: each clause is read off the return that its flag names. -/
theorem stateAtEachReturnOfInit : Obligations.StateAtEachReturnOfInit := by
  unfold Obligations.StateAtEachReturnOfInit
  intro s t dbg rest nonnegative h
  have returned : InitReturn (s.startOp 0b10 dbg) t := by
    rw [initIsNegotiate s dbg rest] at h
    cases h
    exact negotiate_returned _
  have released : decide (extraNegative s.cfg.respExtra) = false := decide_eq_false (Int.not_lt.mpr nonnegative)
  refine ⟨returned.capacity_of_not_ok, fun flag => ?_, returned.atFault (e := .idleFailed), fun flag => ?_,
    returned.atFault (e := .opcondTimeout), fun flag => ?_, fun ok => ?_, fun ok fatal => ?_,
    fun flag hc positive answered => ?_, fun ok => ?_⟩
  · exact flag.elim (returned.atFault (e := .noCard)) (returned.atFault (e := .writeProtected))
  · obtain ⟨legacy, cls, bus, count⟩ := returned.atOcrFault flag
    exact ⟨legacy, cls, bus.trans released, count⟩
  · obtain ⟨known, count, bus⟩ := returned.atCsdFault flag
    exact ⟨known.legacy, known.standard, count, bus⟩
  · obtain ⟨known, bus, count, -⟩ := returned.atOk ok
    exact ⟨known.legacy, known.standard, bus, count⟩
  · obtain ⟨policy, legacy, cls, count, bus⟩ := returned.atStop ok fatal
    exact ⟨policy, legacy, cls, count, bus.trans released⟩
  · obtain ⟨k, after, ⟨before, events⟩, powered, cls⟩ := (returned.classKnown flag).read hc positive answered
    refine ⟨before, after, k, ?_, powered, ?_⟩
    · simpa using events
    · rw [cls]
      exact CapClass.ofBit_eq_high_iff _
  · obtain ⟨-, -, -, k, after, ⟨before, events⟩, two, token, capacity⟩ := returned.atOk ok
    exact ⟨before, after, k, by simpa using events, two, token, capacity⟩

end Sys2Proof.Machine
end

section
/-! SUPPORT. What `Negotiate` depends on (R163): two states that agree on the configuration, the environment's answers,
the debug selection, `dev` and the trace lead to the same result, whatever their other registers hold. -/

namespace Sys2Proof.Machine

/-- The two states agree on what `INIT` reads before it writes it, and on the trace. -/
structure Alike (s u : State) : Prop where
  cfg : s.cfg = u.cfg := by rfl
  env : s.env = u.env := by rfl
  dbg : s.dbg = u.dbg := by rfl
  dev : s.dev = u.dev := by rfl
  trace : s.trace = u.trace := by rfl

/-- What R163 is about: the result of the operation, the answers left and the events. -/
structure SameResult (s u : State) : Prop where
  dev : s.dev = u.dev
  resOk : s.resOk = u.resOk
  env : s.env = u.env
  trace : s.trace = u.trace

/-- Writes to the other registers, in both states. -/
theorem Alike.registers {s u s' u' : State} (h : Alike s u) (hs : Alike s' s := by exact {})
    (hu : Alike u u' := by exact {}) : Alike s' u' where
  cfg := hs.cfg.trans (h.cfg.trans hu.cfg)
  env := hs.env.trans (h.env.trans hu.env)
  dbg := hs.dbg.trans (h.dbg.trans hu.dbg)
  dev := hs.dev.trans (h.dev.trans hu.dev)
  trace := hs.trace.trans (h.trace.trans hu.trace)

section Alike
variable {s u : State} (h : Alike s u)
include h

theorem Alike.emit (e : Event) : Alike (s.emit e) (u.emit e) :=
  ⟨h.cfg, h.env, h.dbg, h.dev, congrArg (e :: ·) h.trace⟩

theorem Alike.assertBus : Alike s.assertBus u.assertBus := (h.emit .assert).registers

theorem Alike.releaseBus : Alike s.releaseBus u.releaseBus := (h.emit .release).registers

theorem Alike.setDev {d d' : DeviceHandle} (same : d = d') : Alike (s.setDev d) (u.setDev d') :=
  ⟨h.cfg, h.env, h.dbg, same, h.trace⟩

theorem Alike.setTimeoutCount {c c' : Count} (same : c = c') : Alike (s.setTimeoutCount c) (u.setTimeoutCount c') :=
  h.setDev (by rw [h.dev, same])

theorem Alike.afterSending (l : List Byte) : Alike (s.afterSending l) (u.afterSending l) where
  cfg := h.cfg
  env := by simp [State.afterSending, h.env]
  dbg := h.dbg
  dev := h.dev
  trace := by simp [State.afterSending, h.env, h.dbg, h.trace]

theorem Alike.xfer (x : Byte) : Alike (s.xfer x) (u.xfer x) := by
  rw [State.xfer_eq, State.xfer_eq]
  exact h.afterSending [x]

theorem Alike.inByte : s.inByte = u.inByte := by rw [State.inByte, h.env, State.inByte]

theorem Alike.presentBit : s.presentBit = u.presentBit := by rw [State.presentBit, h.env, State.presentBit]

theorem Alike.writeProtBit : s.writeProtBit = u.writeProtBit := by rw [State.writeProtBit, h.env, State.writeProtBit]

theorem Alike.sensePresent : Alike s.sensePresent u.sensePresent where
  cfg := h.cfg
  env := by simp [h.env]
  dbg := h.dbg
  dev := h.dev
  trace := by simp [h.presentBit, h.trace]

theorem Alike.senseWriteProt : Alike s.senseWriteProt u.senseWriteProt where
  cfg := h.cfg
  env := by simp [h.env]
  dbg := h.dbg
  dev := h.dev
  trace := by simp [h.writeProtBit, h.trace]

theorem Alike.pollByte : Alike s.pollByte u.pollByte := by
  rw [State.pollByte_eq, State.pollByte_eq, h.cfg]
  exact (h.xfer _).registers

theorem Alike.recordEcho (e : Bool) : Alike (recordEcho e s) (recordEcho e u) :=
  Alike.setDev (s := s.setEcho e) (u := u.setEcho e) h.registers (by rw [h.dev])

/-- R154, R155: the record is what the device answers. -/
theorem Alike.readRecord (csd : s.csd = u.csd) (k : Nat) :
    Alike (readRecord k s) (readRecord k u) ∧ (readRecord k s).csd = (readRecord k u).csd := by
  rw [readRecord_eq, readRecord_eq, h.cfg]
  refine ⟨(h.afterSending _).registers, ?_⟩
  rw [State.setCsd_csd, State.setCsd_csd, csd, h.env]

/-- The end of step 9, and step 10. -/
theorem Alike.decoded (csd : s.csd = u.csd) (x : Byte) :
    Alike (storeCapacity (s.xfer x).releaseBus) (storeCapacity (u.xfer x).releaseBus) := by
  have dev : (s.xfer x).releaseBus.dev.withCapacity (decodeCapacity (s.xfer x).releaseBus.csd) =
      (u.xfer x).releaseBus.dev.withCapacity (decodeCapacity (u.xfer x).releaseBus.csd) := by simp [h.dev, csd]
  exact ((h.xfer x).releaseBus.setDev dev).registers

theorem Alike.returnInit : SameResult (returnInit s) (returnInit u) :=
  ⟨h.dev, congrArg (fun d : DeviceHandle => d.status.ok) h.dev, h.env, h.trace⟩

theorem Alike.markReady : SameResult (markReady s) (markReady u) where
  dev := by simp [h.dev]
  resOk := rfl
  env := by
    unfold Machine.markReady
    simp [h.env]
  trace := by simp [h.trace]

theorem Alike.fault (e : FaultFlag) : SameResult (takeFault e s) (takeFault e u) where
  dev := by simp [h.dev]
  resOk := rfl
  env := h.env
  trace := by simp [h.trace]

end Alike

/-- Alike, with the same reply of a framer call. -/
structure SameReply (s u : State) : Prop extends Alike s u where
  r1 : s.r1 = u.r1
  answered : s.answered = u.answered
  xbuf : s.xbuf = u.xbuf

theorem Alike.call {s u : State} (h : Alike s u) (idx : BitVec 6) (arg : Word32) (extra : Byte) :
    SameReply (transmit idx arg extra s) (transmit idx arg extra u) := by
  obtain ⟨r, -, call⟩ := transmit_eq_afterCall idx arg extra s
  rw [call s rfl rfl, call u h.cfg.symm h.env.symm]
  refine ⟨⟨h.cfg, ?_, h.dbg, h.dev, ?_⟩, rfl, rfl, rfl⟩
  · simp [State.afterCall, h.env, h.cfg]
  · simp [State.afterCall, h.env, h.cfg, h.dbg, h.trace]

/-- Alike, with the same retry counter: the two states are at the same attempt of a loop. -/
structure AlikeInLoop (s u : State) : Prop extends Alike s u where
  cnt : s.cnt = u.cnt

theorem AlikeInLoop.failed {s u : State} (h : AlikeInLoop s u) :
    AlikeInLoop (s.setCnt (s.cnt - 1)) (u.setCnt (u.cnt - 1)) :=
  ⟨h.registers, by rw [State.setCnt_cnt, State.setCnt_cnt, h.cnt]⟩

/-- An attempt that leaves the two at the same attempt, and judged alike. -/
structure AlikeAttempt (good : State → Bool) (s u : State) : Prop extends AlikeInLoop s u where
  judged : good s = good u

section Loop
variable {e : FaultFlag} {attempt onGood again : State → State} {good : State → Bool}
  (tried : ∀ s u, AlikeInLoop s u → AlikeAttempt good (attempt s) (attempt u))
  (success : ∀ s u, AlikeInLoop s u → SameResult (onGood s) (onGood u))
  (next : ∀ s u, AlikeInLoop s u → AlikeInLoop (again s) (again u))
include tried success next

theorem attempts_sameResult (k : Nat) {s u : State} (h : AlikeInLoop s u) :
    SameResult (attempts e attempt good onGood again (k + 1) s) (attempts e attempt good onGood again (k + 1) u) := by
  induction k generalizing s u with
  | zero =>
    obtain ⟨alike, judged⟩ := tried s u h
    unfold attempts
    rw [judged]
    split
    · exact success _ _ alike
    · exact alike.failed.fault e
  | succ k ih =>
    obtain ⟨alike, judged⟩ := tried s u h
    unfold attempts
    rw [judged]
    split
    · exact success _ _ alike
    · exact ih (next _ _ alike.failed)

theorem boundedLoop_sameResult {bound bound' : Count} (same : bound = bound') {s u : State} (h : Alike s u) :
    SameResult (boundedLoop bound e attempt good onGood again s)
      (boundedLoop bound' e attempt good onGood again u) := by
  subst same
  obtain ⟨k, left⟩ := Nat.exists_eq_add_of_lt (attemptsLeft_pos bound)
  unfold boundedLoop
  rw [left, Nat.zero_add]
  exact attempts_sameResult tried success next k ⟨h.registers, rfl⟩

end Loop

section Parts
variable {s u : State}

theorem negotiateHousekeep_sameResult (h : Alike s u) :
    SameResult (negotiateHousekeep s) (negotiateHousekeep u) := by
  unfold negotiateHousekeep
  rw [h.cfg]
  exact ((h.call _ _ _).toAlike.call _ _ _).toAlike.markReady

theorem negotiateRecord_sameResult (h : AlikeInLoop s u) : SameResult (negotiateRecord s) (negotiateRecord u) := by
  have begun : Alike ((s.setTimeoutCount s.cnt).setCsd []) ((u.setTimeoutCount u.cnt).setCsd []) :=
    (h.setTimeoutCount h.cnt).registers
  obtain ⟨read, csd⟩ := begun.readRecord rfl u.cfg.csdLen
  unfold negotiateRecord
  rw [h.cfg]
  exact negotiateHousekeep_sameResult (read.decoded csd _)

theorem negotiateToken_sameResult (h : AlikeInLoop s u) : SameResult (negotiateToken s) (negotiateToken u) := by
  unfold negotiateToken
  refine boundedLoop_sameResult (fun s u h => ⟨⟨h.pollByte, by simp [h.cnt]⟩, ?_⟩)
    (fun s u => negotiateRecord_sameResult) (fun s u h => h) (by rw [h.cfg]) (h.setTimeoutCount h.cnt)
  simp [h.cfg, h.inByte]

theorem negotiateCsd_sameResult (h : Alike s u) : SameResult (negotiateCsd s) (negotiateCsd u) := by
  unfold negotiateCsd
  refine boundedLoop_sameResult (fun s u h => ?_)
    (fun s u => negotiateToken_sameResult) (fun s u h => ⟨h.releaseBus.assertBus, by simp [h.cnt]⟩) (by rw [h.cfg])
    (h.releaseBus.emit (.rate .medium)).assertBus
  rw [h.cfg]
  have reply := h.call u.cfg.idxSendCsd 0 extraMinusOne
  refine ⟨⟨reply.toAlike, by rw [transmit_cnt, transmit_cnt, h.cnt]⟩, ?_⟩
  rw [reply.cfg, reply.r1, reply.answered]

theorem negotiateOcr_sameResult (h : AlikeInLoop s u) : SameResult (negotiateOcr s) (negotiateOcr u) := by
  unfold negotiateOcr
  have reply := (h.setTimeoutCount h.cnt).call u.cfg.idxReadOcr 0 u.cfg.respExtra
  rw [h.cfg]
  generalize transmit _ _ _ (s.setTimeoutCount s.cnt) = t at reply ⊢
  generalize transmit _ _ _ (u.setTimeoutCount u.cnt) = t' at reply ⊢
  simp only
  rw [reply.cfg, reply.r1, reply.answered, reply.xbuf]
  split
  · exact reply.fault _
  · split
    · exact reply.fault _
    · exact negotiateCsd_sameResult (reply.setDev (by rw [reply.dev]))

theorem negotiateLegacyReady_sameResult (h : AlikeInLoop s u) :
    SameResult (negotiateLegacyReady s) (negotiateLegacyReady u) := by
  have counted := h.setTimeoutCount h.cnt
  exact negotiateCsd_sameResult (counted.setDev (by rw [counted.dev]))

/-- The loops of steps 6 and 7. -/
theorem opcondLoop_sameResult (h : Alike s u) {arg : State → Word32} (sameArg : ∀ s u, Alike s u → arg s = arg u)
    {onGood : State → State} (success : ∀ s u, AlikeInLoop s u → SameResult (onGood s) (onGood u)) :
    SameResult
      (boundedLoop s.cfg.opcondRetry .opcondTimeout (fun t => transmit t.cfg.idxSendOpCond (arg t) 0 t)
        (fun t => isReady t.cfg t.r1 t.answered) onGood id s)
      (boundedLoop u.cfg.opcondRetry .opcondTimeout (fun t => transmit t.cfg.idxSendOpCond (arg t) 0 t)
        (fun t => isReady t.cfg t.r1 t.answered) onGood id u) := by
  refine boundedLoop_sameResult (fun s u h => ?_) success (fun s u h => h) (by rw [h.cfg]) h
  rw [h.cfg, sameArg s u h.toAlike]
  have reply := h.call u.cfg.idxSendOpCond (arg u) 0
  refine ⟨⟨reply.toAlike, by rw [transmit_cnt, transmit_cnt, h.cnt]⟩, ?_⟩
  rw [reply.cfg, reply.r1, reply.answered]

theorem negotiateOpcond_recordEcho_sameResult (h : Alike s u) (e : Bool) :
    SameResult (negotiateOpcond (recordEcho e s)) (negotiateOpcond (recordEcho e u)) := by
  have recorded := h.recordEcho e
  unfold negotiateOpcond
  cases e with
  | true =>
    exact opcondLoop_sameResult recorded (fun s u h => by rw [h.cfg]) fun s u => negotiateOcr_sameResult
  | false => exact opcondLoop_sameResult recorded (fun s u h => rfl) fun s u => negotiateLegacyReady_sameResult

theorem negotiateIfCond_sameResult (h : Alike s u) : SameResult (negotiateIfCond s) (negotiateIfCond u) := by
  unfold negotiateIfCond
  have reply := h.call u.cfg.idxSendIfCond u.cfg.ifCondPattern u.cfg.respExtra
  rw [h.cfg]
  generalize transmit _ _ _ s = t at reply ⊢
  generalize transmit _ _ _ u = t' at reply ⊢
  simp only
  rw [reply.cfg, reply.r1, reply.answered, reply.xbuf]
  split
  · exact negotiateOpcond_recordEcho_sameResult reply.toAlike _
  · split
    · exact (reply.recordEcho false).returnInit
    · exact negotiateOpcond_recordEcho_sameResult reply.toAlike false

theorem negotiateIdle_sameResult (h : Alike s u) : SameResult (negotiateIdle s) (negotiateIdle u) := by
  unfold negotiateIdle
  have reply := h.call u.cfg.idxGoIdleState 0 0
  rw [h.cfg]
  generalize transmit _ _ _ s = t at reply ⊢
  generalize transmit _ _ _ u = t' at reply ⊢
  simp only
  rw [reply.cfg, reply.r1, reply.answered]
  split
  · exact negotiateIfCond_sameResult reply.toAlike
  · exact reply.fault _

theorem negotiatePrime_sameResult (h : Alike s u) : SameResult (negotiatePrime s) (negotiatePrime u) := by
  unfold negotiatePrime
  rw [sendAll_eq, sendAll_eq, h.cfg]
  exact negotiateIdle_sameResult ((h.emit (.rate .slow)).afterSending _).assertBus

theorem negotiateSense_sameResult (h : Alike s u) : SameResult (negotiateSense s) (negotiateSense u) := by
  have sensed := h.sensePresent
  have sensed' := sensed.senseWriteProt
  unfold negotiateSense
  rw [h.presentBit, sensed.writeProtBit]
  split
  · exact sensed.fault _
  · split
    · exact sensed'.fault _
    · exact negotiatePrime_sameResult sensed'

/-- R141: the old `dev` does not matter either. -/
theorem negotiate_sameResult (h : Alike (s.setDev DeviceHandle.defaults) (u.setDev DeviceHandle.defaults)) :
    SameResult (negotiate s) (negotiate u) := by
  have cfg : s.cfg = u.cfg := h.cfg
  rw [negotiate_eq, negotiate_eq, State.powerCycled, State.powerCycled, cfg]
  exact negotiateSense_sameResult ((((h.emit .pwrOff).emit _).emit .pwrOn).emit _)

end Parts

/-- The same state with its past events forgotten. -/
def State.forgotten (s : State) : State := { s with trace := [] }

/-- From rest, `INIT` runs as `Negotiate` after a forgotten past, told after the events of the past. -/
theorem exec_init_eq_retold {s : State} (dbg : Bool) (rest : s.AtRest) :
    exec (.init dbg) s = .next ((negotiate (s.forgotten.startOp 0b10 dbg)).retold dbg s.trace) := by
  rw [exec_init_of_rest dbg rest, ← run_startInit, ← runToReturn_retold]
  rfl

end Sys2Proof.Machine
end

section
/-! PROOF. `INIT` depends on nothing old. -/

namespace Sys2Proof.Machine

/-- Settles O30: each of the two runs is told after the trace of its state, and without the traces the two runs have the
same result. -/
theorem initDependsOnNothingOld : Obligations.InitDependsOnNothingOld := by
  unfold Obligations.InitDependsOnNothingOld
  intro s u dbg rest rest' cfg env
  have alike : Alike ((s.forgotten.startOp 0b10 dbg).setDev DeviceHandle.defaults)
      ((u.forgotten.startOp 0b10 dbg).setDev DeviceHandle.defaults) := { cfg := cfg, env := env }
  obtain ⟨dev, resOk, env', trace⟩ := negotiate_sameResult alike
  refine ⟨_, _, _, exec_init_eq_retold dbg rest, exec_init_eq_retold dbg rest', dev, resOk, env', rfl, ?_⟩
  rw [trace]
  rfl

end Sys2Proof.Machine
end

section
/-! SUPPORT. The capacity decode over the naturals: the fields of the record (R183 to R186), and the two formulas, which
never wrap (R190). -/

namespace Sys2Proof.Machine

theorem byteField_toNat (x : Byte) (lo len : Nat) : (x.extractLsb' lo len).toNat = x.toNat / 2 ^ lo % 2 ^ len := by
  rw [BitVec.extractLsb'_toNat, Nat.shiftRight_eq_div_pow]

/-- The left part of `++` stands above the right part. -/
theorem toNat_append_eq_add {m n : Nat} (x : BitVec m) (y : BitVec n) :
    (x ++ y).toNat = x.toNat * 2 ^ n + y.toNat := by
  rw [BitVec.toNat_append, ← Nat.shiftLeft_add_eq_or_of_lt y.isLt, Nat.shiftLeft_eq]

theorem v2Size_toNat (c7 c8 c9 : Byte) :
    (v2Size c7 c8 c9).toNat = c7.toNat % 64 * 65536 + c8.toNat * 256 + c9.toNat := by
  rw [v2Size, toNat_append_eq_add, toNat_append_eq_add, byteField_toNat]
  omega

theorem v1Size_toNat (c6 c7 c8 : Byte) :
    (v1Size c6 c7 c8).toNat = c6.toNat % 4 * 1024 + c7.toNat * 4 + c8.toNat / 64 := by
  rw [v1Size, toNat_append_eq_add, toNat_append_eq_add, byteField_toNat, byteField_toNat]
  omega

theorem v1Mult_toNat (c9 c10 : Byte) : (v1Mult c9 c10).toNat = c9.toNat % 4 * 2 + c10.toNat / 128 := by
  rw [v1Mult, toNat_append_eq_add, byteField_toNat, byteField_toNat]
  omega

theorem v1Exp_toNat (c5 : Byte) : (v1Exp c5).toNat = c5.toNat % 16 := by
  rw [v1Exp, byteField_toNat]
  omega

/-- R182: the top two bits of a byte are 00 exactly below 64. -/
theorem isVersion2_iff (c0 : Byte) : isVersion2 c0 = true ↔ 64 ≤ c0.toNat := by
  rw [isVersion2, bne_iff_ne, ne_eq, ← BitVec.toNat_inj, byteField_toNat]
  bv_omega

/-- The largest field of version 2 is `2^22 - 1`. -/
theorem decodeV2_toNat (c7 c8 c9 : Byte) :
    (decodeV2 c7 c8 c9).toNat = ((v2Size c7 c8 c9).toNat + 1) * 1024 - 1 := by
  unfold decodeV2
  bv_omega

/-- The largest field of version 1 is `2^12 - 1` and the largest shift amount is 15. -/
theorem v1Formula_toNat (size : BitVec 12) (mult : BitVec 3) (exp : BitVec 4) :
    (v1Formula size mult exp).toNat = (size.toNat + 1) * 2 ^ (mult.toNat + 2 + exp.toNat - 9) - 1 := by
  rw [v1Formula]
  generalize shift : mult.toNat + 2 + exp.toNat - 9 = k
  have positive : 0 < (size.toNat + 1) * 2 ^ k := by positivity
  have bounded : (size.toNat + 1) * 2 ^ k ≤ 2 ^ 12 * 2 ^ 15 :=
    Nat.mul_le_mul size.isLt (Nat.pow_le_pow_right Nat.two_pos (by omega))
  have count : (size.setWidth 32 + 1).toNat = size.toNat + 1 := by bv_omega
  have scaled : ((size.setWidth 32 + 1) <<< k).toNat = (size.toNat + 1) * 2 ^ k := by
    rw [BitVec.toNat_shiftLeft, count, Nat.shiftLeft_eq, Nat.mod_eq_of_lt (by omega)]
  bv_omega

section Layout
variable {csd : List Byte}

theorem decodeCapacity_of_version2 (version : 64 ≤ (heldAt csd 0).toNat) :
    decodeCapacity csd = decodeV2 (heldAt csd 7) (heldAt csd 8) (heldAt csd 9) :=
  if_pos ((isVersion2_iff _).mpr version)

theorem decodeCapacity_of_version1 (version : (heldAt csd 0).toNat < 64) :
    decodeCapacity csd = decodeV1 (heldAt csd 0) (heldAt csd 5) (heldAt csd 6) (heldAt csd 7) (heldAt csd 8)
      (heldAt csd 9) (heldAt csd 10) :=
  if_neg fun h => Nat.not_le.mpr version ((isVersion2_iff _).mp h)

end Layout

theorem decodeV1_of_defined {c0 c5 c6 c7 c8 c9 c10 : Byte} (defined : 9 ≤ c5.toNat % 16) :
    decodeV1 c0 c5 c6 c7 c8 c9 c10 = v1Formula (v1Size c6 c7 c8) (v1Mult c9 c10) (v1Exp c5) :=
  if_pos (defined.trans_eq (v1Exp_toNat c5).symm)

theorem decodeV1_of_low {c0 c5 c6 c7 c8 c9 c10 : Byte} (low : c5.toNat % 16 < 9) :
    decodeV1 c0 c5 c6 c7 c8 c9 c10 = Config.lowExponentCapacity [c0, c5, c6, c7, c8, c9, c10] :=
  if_neg (Nat.not_le.mpr ((v1Exp_toNat c5).trans_lt low))

theorem heldAt_congr {a b : List Byte} {k : Nat} (same : a[k]? = b[k]?) : heldAt a k = heldAt b k := by
  rw [heldAt, heldAt, same]

end Sys2Proof.Machine
end

section
/-! PROOF. The capacity decode. -/

namespace Sys2Proof.Machine

/-- Settles O36: the formula of version 2 on the field of bytes 7, 8 and 9. -/
theorem versionTwoCapacity : Obligations.VersionTwoCapacity := by
  unfold Obligations.VersionTwoCapacity
  intro csd _ version
  rw [decodeCapacity_of_version2 version, decodeV2_toNat, v2Size_toNat]

/-- Settles O37: the formula of version 1 on the three fields of bytes 5 to 10. -/
theorem versionOneCapacity : Obligations.VersionOneCapacity := by
  unfold Obligations.VersionOneCapacity
  intro csd _ version defined
  rw [decodeCapacity_of_version1 version, decodeV1_of_defined defined, v1Formula_toNat, v1Size_toNat, v1Mult_toNat,
    v1Exp_toNat, Nat.add_sub_assoc defined]

/-- Settles O38: the decode takes the free value, and step 10 writes it to `dev` alone. -/
theorem lowExponentCapacityIsFree : Obligations.LowExponentCapacityIsFree := by
  unfold Obligations.LowExponentCapacityIsFree
  intro s version low
  have written : (storeCapacity s).dev.usableCapacity = decodeCapacity s.csd := rfl
  rw [written, decodeCapacity_of_version1 version, decodeV1_of_low low]
  exact ⟨rfl, rfl, rfl⟩

/-- Settles O39: each byte that the decode names is one of the seven. -/
theorem capacityDependsOnTheReadBytesOnly : Obligations.CapacityDependsOnTheReadBytesOnly := by
  unfold Obligations.CapacityDependsOnTheReadBytesOnly
  intro a b same
  have read (k : Nat) (hk : k = 0 ∨ (5 ≤ k ∧ k ≤ 10)) : heldAt a k = heldAt b k := heldAt_congr (same k hk)
  rw [decodeCapacity, read 0 (by decide), read 5 (by decide), read 6 (by decide), read 7 (by decide),
    read 8 (by decide), read 9 (by decide), read 10 (by decide), decodeCapacity]

end Sys2Proof.Machine
end

section
/-! SUPPORT. The two bits of the OCR (R180, R181), and what the judgement of the OCR read makes of them (R148, R149). -/

namespace Sys2Proof.Machine

theorem getLsbD_iff_div_mod (x : Byte) (k : Nat) : x.getLsbD k = true ↔ x.toNat / 2 ^ k % 2 = 1 := by
  rw [BitVec.getLsbD, Nat.testBit_eq_decide_div_mod_eq, decide_eq_true_iff]

theorem ocrPoweredUp_iff (x : Byte) : ocrPoweredUp x = true ↔ 128 ≤ x.toNat := by
  rw [ocrPoweredUp, getLsbD_iff_div_mod]
  omega

theorem ocrClass_eq_high_iff (x : Byte) :
    CapClass.ofBit (ocrHighCapacity x) = .high ↔ x.toNat / 64 % 2 = 1 :=
  (CapClass.ofBit_eq_high_iff _).trans (getLsbD_iff_div_mod x 6)

/-- R148: the default `OCR_ACCEPT`. -/
theorem ocrAccepts_standard_iff (r1 : Byte) (answered : Bool) :
    ocrAccepts Config.standard r1 answered = true ↔ answered = true ∧ r1 = 0x00 := by
  simp [ocrAccepts, Config.standard, and_comm]

section Judged
variable {s : State}

theorem judgeReadOcr_of_refused (refused : ocrAccepts s.cfg s.r1 s.answered = false) :
    judgeReadOcr s = takeFault .ocrTimeout s :=
  if_pos (by rw [refused]; rfl)

theorem judgeReadOcr_of_unpowered (accepted : ocrAccepts s.cfg s.r1 s.answered = true)
    (unpowered : ocrPoweredUp (heldAt s.xbuf 0) = false) :
    judgeReadOcr s = takeFault .powerupNotConfirmed s := by
  rw [judgeReadOcr, accepted, unpowered]
  rfl

theorem judgeReadOcr_of_powered (accepted : ocrAccepts s.cfg s.r1 s.answered = true)
    (powered : ocrPoweredUp (heldAt s.xbuf 0) = true) :
    judgeReadOcr s =
      (s.setDev (s.dev.withCapClass (CapClass.ofBit (ocrHighCapacity (heldAt s.xbuf 0))))).goto .n8Release := by
  rw [judgeReadOcr, accepted, powered]
  rfl

end Judged

end Sys2Proof.Machine
end

section
/-! PROOF. The OCR bits, and step 6 that judges them. -/

namespace Sys2Proof.Machine

/-- Settles O40: the two bits as numbers, and the three ways of the judgement. -/
theorem ocrBitsAreBitsSevenAndSix : Obligations.OcrBitsAreBitsSevenAndSix := by
  unfold Obligations.OcrBitsAreBitsSevenAndSix
  refine ⟨fun x => ⟨ocrPoweredUp_iff x, ocrClass_eq_high_iff x⟩, by decide, by decide, by decide, by decide,
    by decide, by decide, fun s st standard => ?_⟩
  have judged : tick s = judgeReadOcr s := tick_of_judge st
  have accepts : ocrAccepts s.cfg s.r1 s.answered = true ↔ s.answered = true ∧ s.r1 = 0x00 := by
    rw [standard]
    exact ocrAccepts_standard_iff _ _
  refine ⟨fun failed => ?_, fun answered zero x first => ?_⟩
  · have refused : ocrAccepts s.cfg s.r1 s.answered = false := by
      rw [← Bool.not_eq_true, accepts, not_and_or, Bool.not_eq_true]
      exact failed
    rw [judged, judgeReadOcr_of_refused refused]
    exact ⟨rfl, rfl, rfl, rfl⟩
  · have accepted := accepts.mpr ⟨answered, zero⟩
    have byte : heldAt s.xbuf 0 = x := by rw [heldAt, first, Option.getD_some]
    refine ⟨fun low => ?_, fun powered => ?_⟩
    · have unpowered : ocrPoweredUp (heldAt s.xbuf 0) = false := by
        rw [← Bool.not_eq_true, byte, ocrPoweredUp_iff]
        exact Nat.not_le.mpr low
      rw [judged, judgeReadOcr_of_unpowered accepted unpowered]
      exact ⟨rfl, rfl, rfl, rfl⟩
    · rw [← ocrPoweredUp_iff, ← byte] at powered
      rw [judged, judgeReadOcr_of_powered accepted powered, byte]
      exact ⟨rfl, rfl, ocrClass_eq_high_iff x, rfl⟩

end Sys2Proof.Machine
end

section
/-! SUPPORT. `WRITE` runs as `WriteBlock` (R200), part by part and the latest part first. -/

namespace Sys2Proof.Machine

/-- The cleanup transfer, the `RELEASE` and the successful return (R207). -/
theorem run_writeEnd (s : State) :
    runToReturn (s.goto .wClean) = returnWrite (s.xfer s.cfg.filler).releaseBus :=
  calc runToReturn (s.goto .wClean)
    _ = runToReturn ((s.xfer s.cfg.filler).goto .wRelease) := run_tick _ _ _ rfl
    _ = runToReturn (returnWrite (s.xfer s.cfg.filler).releaseBus) := run_tick _ _ _ rfl
    _ = returnWrite (s.xfer s.cfg.filler).releaseBus := runToReturn_of_not_busy rfl

/-- The busy polls, entered with their bound in the counter (R206). -/
theorem run_awaitBusy (s : State) : runToReturn ((s.setCnt s.cfg.writeBusyRetry).goto .wBusy) = awaitBusy s := by
  refine run_attempts .writeTimeout State.pollByte (fun t => busyEnded t.b)
    (fun t => returnWrite ((t.setTimeoutCount t.cnt).xfer t.cfg.filler).releaseBus) id (fun t => t.goto .wBusy)
    (fun t => t.goto .wBusy) (fun _ => rfl) (fun _ => rfl) (fun _ => rfl) (fun t => ?_)
    (s.setCnt s.cfg.writeBusyRetry)
  have judged : runToReturn (t.pollByte.goto .wBusyJudge) = runToReturn (judgeBusy t.pollByte) := by
    exact run_tick _ _ _ rfl
  rw [run_tick t .wBusy (t.pollByte.goto .wBusyJudge) rfl, judged]
  exact run_ite (run_writeEnd _) rfl

/-- The judgement of the data response (R205). -/
theorem run_writeResponse (s : State) : runToReturn (s.goto .wRespJudge) = writeResponse s := by
  have judged : tick (s.goto .wRespJudge) =
      if dataAccepted s.cfg s.b then (s.setCnt s.cfg.writeBusyRetry).goto .wBusy
      else takeFault .writeDataRejected s := rfl
  rw [runToReturn_goto, judged, writeResponse]
  cases dataAccepted s.cfg s.b with
  | false => exact runToReturn_takeFault _ _
  | true => exact run_awaitBusy s

/-- The payload bytes from byte `i` on, `k` of them (R204). -/
theorem run_payload (k : Nat) {i : Nat} {s : State} (left : s.cfg.blockBytes = i + k) :
    runToReturn (s.goto (dataPhase s.cfg i)) = runToReturn ((sendPayloadFrom i k s).goto (.wCheck 0)) := by
  induction k generalizing i s with
  | zero => rw [dataPhase, if_neg (by omega)]; rfl
  | succ k ih =>
    rw [dataPhase, if_pos (by omega), runToReturn_goto]
    exact ih (s := s.xfer (memRead s (BitVec.ofNat 9 i))) (i := i + 1) (by rw [State.xfer_cfg]; omega)

/-- The block, from the data-start token to the data response (R204, R205). -/
theorem run_block (s : State) : runToReturn (s.goto .wToken) = writeResponse (sendBlock s) :=
  let sent := sendPayloadFrom 0 s.cfg.blockBytes (s.xfer s.cfg.tokenStart)
  calc runToReturn (s.goto .wToken)
    _ = runToReturn ((s.xfer s.cfg.tokenStart).goto (dataPhase s.cfg 0)) := run_tick _ _ _ rfl
    _ = runToReturn (sent.goto (.wCheck 0)) := run_payload s.cfg.blockBytes (Nat.zero_add _).symm
    _ = runToReturn ((sent.xfer sent.cfg.filler).goto (.wCheck 1)) := run_tick _ _ _ rfl
    _ = runToReturn (((sent.xfer sent.cfg.filler).xfer sent.cfg.filler).goto .wResp) := run_tick _ _ _ rfl
    _ = runToReturn ((closeBlock sent).goto .wRespJudge) := run_tick _ _ _ rfl
    _ = writeResponse (sendBlock s) := run_writeResponse _

/-- The judgement of the write command (R203). -/
theorem run_writeCmd (s : State) : runToReturn (judgeWriteCmd s) = writeData s := by
  rw [judgeWriteCmd, writeData]
  cases isAccepted s.cfg s.r1 s.answered with
  | false => exact runToReturn_takeFault _ _
  | true => exact run_block s

theorem run_startWrite (sector : Word32) (dbg : Bool) (s : State) :
    runToReturn (startWrite sector dbg s) = writeBlock sector (s.startOp 0b11 dbg) :=
  (run_call _ _ _ _ .wCmd).trans (run_writeCmd _)

end Sys2Proof.Machine
end

section
/-! PROOF. `WRITE` is `WriteBlock`. -/

namespace Sys2Proof.Machine

/-- Settles O41: the run from the start of `WRITE`, part by part. -/
theorem writeIsWriteBlock : Obligations.WriteIsWriteBlock := by
  unfold Obligations.WriteIsWriteBlock
  intro s sector dbg rest
  rw [exec_write_of_rest rest, run_startWrite]

end Sys2Proof.Machine
end

section
/-! SUPPORT. The judgements of the data response and of a busy poll (R205, R206). -/

namespace Sys2Proof.Machine

/-- R205 with the default mask and value: the low nibble is 5. -/
theorem dataAccepted_standard_iff (x : Byte) :
    dataAccepted Config.standard x = true ↔ x.toNat % 16 = 5 := by
  have nibble : (x &&& 0x0F#8).toNat = x.toNat % 16 :=
    (BitVec.toNat_and x 0x0F#8).trans (Nat.and_two_pow_sub_one_eq_mod x.toNat 4)
  rw [dataAccepted, beq_iff_eq, ← BitVec.toNat_inj, ← nibble]
  rfl

theorem busyEnded_iff (x : Byte) : busyEnded x = true ↔ x ≠ 0x00 := bne_iff_ne

theorem State.pollByte_b (s : State) : s.pollByte.b = s.env.xfer.nth 0 := Answers.peek_eq s.env.xfer

theorem State.pollByte_trace (s : State) :
    s.pollByte.trace = .xfer s.cfg.filler (s.env.xfer.nth 0) s.dbg :: s.trace := by
  rw [← State.pollByte_b]
  rfl

end Sys2Proof.Machine
end

section
/-! PROOF. The data response and the busy poll. -/

namespace Sys2Proof.Machine

/-- Settles O45: the transfer is one step, and the judgement of its byte the next. -/
theorem dataResponseAndBusyPoll : Obligations.DataResponseAndBusyPoll := by
  unfold Obligations.DataResponseAndBusyPoll
  intro s standard
  have responded (st : s.st = .wResp) : tick s = s.pollByte.goto .wRespJudge := by
    simp only [tick, st, readDataResponse]
  have polled (st : s.st = .wBusy) : tick s = s.pollByte.goto .wBusyJudge := by
    simp only [tick, st, pollBusy]
  have accepts : dataAccepted s.cfg s.pollByte.b = true ↔ (s.env.xfer.nth 0).toNat % 16 = 5 := by
    rw [standard, dataAccepted_standard_iff, State.pollByte_b]
  have ended : busyEnded s.pollByte.b = true ↔ s.env.xfer.nth 0 ≠ 0x00 := by
    rw [busyEnded_iff, State.pollByte_b]
  have failed (st : s.st = .wBusy) (zero : s.env.xfer.nth 0 = 0x00) : tick (tick s) =
      failedAttempt .writeTimeout (fun t => t.goto .wBusy) (s.pollByte.goto .wBusyJudge) := by
    rw [polled st]
    exact if_neg fun nonzero => ended.mp nonzero zero
  refine ⟨fun st => ?_, fun st five => ?_, fun st other => ?_, fun st nonzero => ?_, fun st zero last => ?_,
    fun st zero more => ?_⟩
  · have moved : ∃ p, tick s = s.pollByte.goto p := by
      obtain st | st := st
      · exact ⟨_, responded st⟩
      · exact ⟨_, polled st⟩
    obtain ⟨p, moved⟩ := moved
    rw [moved]
    refine ⟨rfl, rfl, (State.pollByte_trace s).trans ?_⟩
    rw [standard]
    rfl
  · have judged : tick (tick s) = (s.pollByte.setCnt s.cfg.writeBusyRetry).goto .wBusy := by
      rw [responded st]
      exact if_pos (accepts.mpr five)
    rw [judged, responded st, standard]
    exact ⟨rfl, rfl, rfl, rfl⟩
  · have judged : tick (tick s) = takeFault .writeDataRejected s.pollByte := by
      rw [responded st]
      exact if_neg fun five => other (accepts.mp five)
    rw [judged, responded st]
    exact ⟨rfl, rfl, rfl, rfl, Bool.and_false _, rfl⟩
  · have judged : tick (tick s) = (s.pollByte.setTimeoutCount s.cnt).goto .wClean := by
      rw [polled st]
      exact if_pos (ended.mpr nonzero)
    rw [judged, polled st]
    exact ⟨rfl, rfl, rfl⟩
  · rw [failed st zero, polled st, failedAttempt_of_last _ _ (s := s.pollByte.goto .wBusyJudge) last]
    exact ⟨rfl, rfl, rfl, rfl, rfl, Bool.and_false _, rfl⟩
  · rw [failed st zero, polled st, failedAttempt_of_not_last _ _ (s := s.pollByte.goto .wBusyJudge) more]
    exact ⟨rfl, rfl, rfl, rfl⟩

end Sys2Proof.Machine
end

section
/-! SUPPORT. What a part of `WriteBlock` has behind it: the bytes sent since the bus was asserted (R202 to R207). -/

namespace Sys2Proof.Machine

/-- Since `o` the block has sent the bytes `l` and issued no other event; the registers named here are as they were. -/
structure Sent (o u : State) (l : List Byte) : Prop where
  cfg : u.cfg = o.cfg
  mem : u.mem = o.mem
  dbg : u.dbg = o.dbg
  dev : u.dev = o.dev
  idx : u.idx = o.idx
  arg : u.arg = o.arg
  extra : u.extra = o.extra
  sector : u.sector = o.sector
  answers : u.env.xfer = o.env.xfer.skip l.length
  trace : u.trace = (exchange o.env.xfer o.dbg 0 l).reverse ++ o.trace

section Sent
variable {o u : State} {l : List Byte} (h : Sent o u l)
include h

/-- The retry counter is none of what `Sent` names. -/
theorem Sent.setCnt (c : Count) : Sent o (u.setCnt c) l :=
  ⟨h.cfg, h.mem, h.dbg, h.dev, h.idx, h.arg, h.extra, h.sector, h.answers, h.trace⟩

/-- The next answer is the one at the place of the next byte. -/
theorem Sent.inByte : u.inByte = o.env.xfer.nth l.length := by
  rw [State.inByte, Answers.peek_eq, h.answers, Answers.nth_skip, Nat.add_zero]

theorem Sent.xfer (x : Byte) : Sent o (u.xfer x) (l ++ [x]) where
  cfg := h.cfg
  mem := h.mem
  dbg := h.dbg
  dev := h.dev
  idx := h.idx
  arg := h.arg
  extra := h.extra
  sector := h.sector
  answers := by
    rw [State.xfer_eq, State.afterSending_xfer_env, h.answers, Answers.skip_skip, List.length_append]
  trace := by
    rw [State.xfer_trace, h.inByte, h.dbg, h.trace, exchange_append, Nat.zero_add]
    simp [exchange]

theorem Sent.filler : Sent o (u.xfer u.cfg.filler) (l ++ [o.cfg.filler]) := by
  rw [← h.cfg]
  exact h.xfer _

theorem Sent.pollByte : Sent o u.pollByte (l ++ [o.cfg.filler]) :=
  have sent := h.filler
  ⟨sent.cfg, sent.mem, sent.dbg, sent.dev, sent.idx, sent.arg, sent.extra, sent.sector, sent.answers, sent.trace⟩

theorem Sent.polledByte : u.pollByte.b = o.env.xfer.nth l.length := h.inByte

end Sent

/-- R204: `n` payload bytes from byte `i` on. -/
def State.payload (o : State) (i n : Nat) : List Byte :=
  (List.range' i n).map fun i => memRead o (BitVec.ofNat 9 i)

theorem Sent.sendPayloadFrom (n : Nat) {o u : State} {i : Nat} {l : List Byte} (h : Sent o u l) :
    Sent o (sendPayloadFrom i n u) (l ++ o.payload i n) := by
  induction n generalizing i u l with
  | zero => exact (List.append_nil l).symm ▸ h
  | succ n ih =>
    have next := ih (i := i + 1) (h.xfer (memRead u (BitVec.ofNat 9 i)))
    rw [memRead_congr h.mem, List.append_assoc] at next
    rw [Machine.sendPayloadFrom, memRead_congr h.mem]
    exact next

/-- R204, R205: the bytes of a block, up to the transfer that brings the data response. -/
def State.block (o : State) : List Byte :=
  [o.cfg.tokenStart] ++ o.payload 0 o.cfg.blockBytes ++ List.replicate 3 o.cfg.filler

theorem State.block_length (o : State) : o.block.length = o.cfg.blockBytes + 4 := by
  simp [State.block, State.payload]

section Block
variable {o u : State} {l : List Byte} (h : Sent o u l)
include h

theorem Sent.sendBlock : Sent o (sendBlock u) (l ++ o.block) := by
  have payload := (h.xfer u.cfg.tokenStart).sendPayloadFrom (i := 0) u.cfg.blockBytes
  have closed := payload.filler.filler.pollByte
  rw [h.cfg] at closed
  have bytes : l ++ o.block = l ++ [o.cfg.tokenStart] ++ o.payload 0 o.cfg.blockBytes ++ [o.cfg.filler] ++
      [o.cfg.filler] ++ [o.cfg.filler] := by
    simp [State.block, List.replicate]
  rw [bytes, Machine.sendBlock, h.cfg]
  exact closed

/-- R205: the data response is the answer to the last byte of the block. -/
theorem Sent.dataResponse : (Machine.sendBlock u).b = o.env.xfer.nth (l.length + o.cfg.blockBytes + 3) := by
  have payload := (h.xfer u.cfg.tokenStart).sendPayloadFrom (i := 0) u.cfg.blockBytes
  refine payload.filler.filler.polledByte.trans (congrArg _ ?_)
  simp [State.payload, h.cfg]
  omega

end Block

/-- R201, R202: the write command with its operands, at the assertion of the bus. -/
def State.writeOpened (s : State) (sector : Word32) : State :=
  openFrame s.cfg.idxWriteSingleBlock (writeArg s.dev.capClass.isHigh sector) extraMinusOne (s.setSector sector)

/-- The frame of the write command. -/
def State.writeFrame (s : State) (sector : Word32) : List Byte :=
  (buildFrame s.cfg s.cfg.idxWriteSingleBlock (writeArg s.dev.capClass.isHigh sector)).toList

/-- The state after the write command, whatever the device answered to it. -/
def State.writeCalled (s : State) (sector : Word32) (r : Reply) : State :=
  (s.setSector sector).afterCall s.cfg.idxWriteSingleBlock (writeArg s.dev.capClass.isHigh sector) extraMinusOne r

/-- R202: the write command is sent without a cleanup transfer, and the bus stays asserted. -/
theorem writeCalled_sent (s : State) (sector : Word32) (r : Reply) :
    Sent (s.writeOpened sector) (s.writeCalled sector r)
      (s.writeFrame sector ++ List.replicate r.fillers s.cfg.filler) :=
  ⟨rfl, rfl, rfl, rfl, rfl, rfl, rfl, rfl, rfl, rfl⟩

theorem writeBlock_of_silent {s : State} (sector : Word32)
    (silent : ∀ j, j < s.cfg.cmdRetry.toNat → s.env.xfer.nth (6 + j) = s.cfg.filler) :
    writeBlock sector s = writeData (s.writeCalled sector (.silent s.cfg)) :=
  congrArg writeData (transmit_of_silent _ _ _ (s := s.setSector sector) silent)

theorem writeBlock_of_token {s : State} (sector : Word32) {j : Nat} (inTime : j < s.cfg.cmdRetry.toNat)
    (before : ∀ i, i < j → s.env.xfer.nth (6 + i) = s.cfg.filler) (token : s.env.xfer.nth (6 + j) ≠ s.cfg.filler) :
    writeBlock sector s = writeData (s.writeCalled sector (.atPoll s.env.xfer extraMinusOne j)) :=
  congrArg writeData (transmit_of_token _ _ _ (s := s.setSector sector) inTime before token)

theorem writeBlock_eq (sector : Word32) (s : State) :
    ∃ r : Reply, writeBlock sector s = writeData (s.writeCalled sector r) := by
  obtain ⟨r, -, call⟩ := transmit_eq_afterCall s.cfg.idxWriteSingleBlock (writeArg s.dev.capClass.isHigh sector)
    extraMinusOne (s.setSector sector)
  exact ⟨r, congrArg writeData (call _ rfl rfl)⟩

end Sys2Proof.Machine
end

section
/-! SUPPORT. The returns of `WRITE`: a fault of its own (R208), or the successful return (R207). -/

namespace Sys2Proof.Machine

/-- What `WRITE` leaves that has sent the bytes `l` since the bus was asserted at `o`. -/
inductive WriteReturn (o : State) (l : List Byte) : State → Prop
  | faulted (e : FaultFlag) (kind : e.isWriteFault = true) {u : State} (sent : Sent o u l) :
      WriteReturn o l (takeFault e u)
  | written (c : Count) {u : State} (sent : Sent o u l) :
      WriteReturn o l (returnWrite (u.setTimeoutCount c).releaseBus)

theorem FaultFlag.releasesBus_of_isWriteFault {e : FaultFlag} (kind : e.isWriteFault = true) :
    e.releasesBus = true := by
  cases e <;> simp [FaultFlag.isWriteFault] at kind <;> rfl

section Returned
variable {o t : State} {l : List Byte} (h : WriteReturn o l t)
include h

/-- R209: the one `RELEASE` comes after every transfer. -/
theorem WriteReturn.trace : t.trace = .release :: ((exchange o.env.xfer o.dbg 0 l).reverse ++ o.trace) := by
  cases h with
  | faulted e kind sent => rw [takeFault_trace, FaultFlag.releasesBus_of_isWriteFault kind, if_pos rfl, sent.trace]
  | written c sent => exact congrArg _ sent.trace

theorem WriteReturn.busAsserted : t.busAsserted = false := by
  cases h with
  | faulted e kind sent =>
    rw [takeFault_busAsserted, FaultFlag.releasesBus_of_isWriteFault kind]
    exact Bool.and_false _
  | written => rfl

theorem WriteReturn.operands : t.idx = o.idx ∧ t.arg = o.arg ∧ t.extra = o.extra ∧ t.sector = o.sector := by
  cases h with
  | faulted e kind sent => exact ⟨sent.idx, sent.arg, sent.extra, sent.sector⟩
  | written c sent => exact ⟨sent.idx, sent.arg, sent.extra, sent.sector⟩

end Returned

section Parts
variable {o u : State} {l : List Byte} (h : Sent o u l)
include h

/-- R207: the cleanup transfer, the `RELEASE` and the successful return. -/
theorem Sent.written :
    WriteReturn o (l ++ [o.cfg.filler]) (returnWrite ((u.setTimeoutCount u.cnt).xfer u.cfg.filler).releaseBus) :=
  .written u.cnt h.filler

theorem awaitBusy_returns : ∃ more, WriteReturn o (l ++ more) (awaitBusy u) := by
  refine boundedLoop_induction (fun _ v => ∃ more, Sent o v (l ++ more)) (fun t => ∃ more, WriteReturn o (l ++ more) t)
    (fun _ v ⟨more, sent⟩ _ => ⟨more ++ [o.cfg.filler] ++ [o.cfg.filler], ?_⟩)
    (fun v ⟨more, sent⟩ _ => ⟨more ++ [o.cfg.filler], ?_⟩)
    (fun _ v ⟨more, sent⟩ _ => ⟨more ++ [o.cfg.filler], ?_⟩) u ⟨[], ?_⟩
  · rw [← List.append_assoc, ← List.append_assoc]
    exact sent.pollByte.written
  · rw [← List.append_assoc]
    exact .faulted .writeTimeout rfl (sent.pollByte.setCnt _)
  · rw [← List.append_assoc]
    exact sent.pollByte.setCnt _
  · rw [List.append_nil]
    exact h.setCnt _

theorem writeResponse_returns : ∃ more, WriteReturn o (l ++ more) (writeResponse u) := by
  unfold writeResponse
  split
  · exact ⟨[], by rw [List.append_nil]; exact .faulted .writeDataRejected rfl h⟩
  · exact awaitBusy_returns h

theorem writeData_returns : ∃ more, WriteReturn o (l ++ more) (writeData u) := by
  unfold writeData
  split
  · exact ⟨[], by rw [List.append_nil]; exact .faulted .writeCmdRejected rfl h⟩
  · obtain ⟨more, returned⟩ := writeResponse_returns h.sendBlock
    exact ⟨o.block ++ more, by rw [← List.append_assoc]; exact returned⟩

end Parts

/-- R209: the events of a `WRITE` in the order in which they happen. -/
theorem WriteReturn.events {s t : State} {sector : Word32} {l : List Byte}
    (h : WriteReturn (s.writeOpened sector) l t) :
    t.trace.reverse = s.trace.reverse ++ (.assert :: exchange s.env.xfer s.dbg 0 l) ++ [.release] := by
  have trace : t.trace = .release :: ((exchange s.env.xfer s.dbg 0 l).reverse ++ .assert :: s.trace) := h.trace
  rw [trace]
  simp

/-- Every `WRITE` sends its frame first. -/
theorem writeBlock_returns (sector : Word32) (s : State) :
    ∃ more, WriteReturn (s.writeOpened sector) (s.writeFrame sector ++ more) (writeBlock sector s) := by
  obtain ⟨r, called⟩ := writeBlock_eq sector s
  obtain ⟨more, returned⟩ := writeData_returns (writeCalled_sent s sector r)
  exact ⟨List.replicate r.fillers s.cfg.filler ++ more, by rw [called, ← List.append_assoc]; exact returned⟩

/-- From rest, every `WRITE` completes in one of these ways. -/
theorem exec_write_returns {s t : State} (sector : Word32) (dbg : Bool) (rest : s.AtRest)
    (h : exec (.write sector dbg) s = .next t) :
    ∃ more, WriteReturn ((s.startOp 0b11 dbg).writeOpened sector) (s.writeFrame sector ++ more) t := by
  rw [writeIsWriteBlock s sector dbg rest] at h
  cases h
  exact writeBlock_returns sector (s.startOp 0b11 dbg)

end Sys2Proof.Machine
end

section
/-! SUPPORT. The device record and the result that a `WRITE` leaves (R207, R208, R210). -/

namespace Sys2Proof.Machine

theorem faultStatus_flag (e d : FaultFlag) (r : StatusRecord) :
    (faultStatus e r).flag d = (r.flag d || decide (d = e)) := by
  rw [faultStatus, StatusRecord.withTimeoutCount_flag, StatusRecord.raise_flag]

theorem exchange_no_release (a : Answers Byte) (d : Bool) (k : Nat) (l : List Byte) :
    Event.release ∉ exchange a d k l := by
  induction l generalizing k with
  | nil => exact List.not_mem_nil
  | cons x l ih => simp [exchange, ih]

section Returned
variable {o t : State} {l : List Byte} (h : WriteReturn o l t)
include h

/-- R210: of `dev`, `WRITE` writes its own flags and the diagnostic counter. -/
theorem WriteReturn.dev : t.dev.capClass = o.dev.capClass ∧ t.dev.legacy = o.dev.legacy ∧
    t.dev.usableCapacity = o.dev.usableCapacity ∧ t.dev.status.ok = o.dev.status.ok := by
  cases h with
  | faulted e kind sent =>
    rw [takeFault_dev, ← sent.dev]
    exact ⟨rfl, rfl, rfl, StatusRecord.raise_ok _ e⟩
  | written c sent =>
    rw [← sent.dev]
    exact ⟨rfl, rfl, rfl, rfl⟩

/-- R207, R208: the result of `WRITE`, and the flags that go with it. -/
theorem WriteReturn.result :
    (t.resOk = true ∧ t.nextAddr = o.sector + 1 ∧ ∀ d, t.dev.status.flag d = o.dev.status.flag d) ∨
      (t.resOk = false ∧ t.nextAddr = 0 ∧ ∃ e : FaultFlag, e.isWriteFault = true ∧
        ∀ d, t.dev.status.flag d = (o.dev.status.flag d || decide (d = e))) := by
  cases h with
  | faulted e kind sent =>
    refine .inr ⟨rfl, if_pos kind, e, kind, fun d => ?_⟩
    rw [takeFault_dev, DeviceHandle.withStatus_status, faultStatus_flag, sent.dev]
  | written c sent =>
    refine .inl ⟨rfl, congrArg (· + 1) sent.sector, fun d => ?_⟩
    rw [← sent.dev]
    exact StatusRecord.withTimeoutCount_flag _ c d

end Returned

/-- R201: the scaling for a standard-capacity device. -/
theorem writeArg_standard_toNat (sector : Word32) :
    (writeArg CapClass.standard.isHigh sector).toNat = sector.toNat * 512 % 2 ^ 32 := by
  rw [← Nat.shiftLeft_eq sector.toNat 9]
  exact BitVec.toNat_shiftLeft

end Sys2Proof.Machine
end

section
/-! PROOF. The argument, the events and the result of every `WRITE`. -/

namespace Sys2Proof.Machine

/-- Settles O42: the operands of the write command stay to the return, and its frame is sent first. -/
theorem writeScalesTheAddressByTheClass : Obligations.WriteScalesTheAddressByTheClass := by
  unfold Obligations.WriteScalesTheAddressByTheClass
  intro s sector dbg rest
  obtain ⟨more, returned⟩ := writeBlock_returns sector (s.startOp 0b11 dbg)
  obtain ⟨idx, arg, extra, sector'⟩ := returned.operands
  refine ⟨_, exchange s.env.xfer dbg 6 more ++ [.release], writeArg s.dev.capClass.isHigh sector,
    writeIsWriteBlock s sector dbg rest, fun high => ?_, fun standard => ?_, arg, idx, extra, sector', ?_⟩
  · rw [high]
    rfl
  · rw [standard]
    exact writeArg_standard_toNat sector
  · rw [returned.events, exchange_append]
    simp [State.writeFrame]

/-- Settles O46: one `ASSERT` of the framer, transfers, and one `RELEASE`. -/
theorem everyWriteReleasesExactlyOnce : Obligations.EveryWriteReleasesExactlyOnce := by
  unfold Obligations.EveryWriteReleasesExactlyOnce
  intro s sector dbg rest
  obtain ⟨more, returned⟩ := writeBlock_returns sector (s.startOp 0b11 dbg)
  refine ⟨_, (exchange s.env.xfer dbg 0 (s.writeFrame sector ++ more)).reverse ++ [.assert],
    writeIsWriteBlock s sector dbg rest, ?_, ?_, ?_, returned.busAsserted⟩
  · rw [List.append_assoc]
    exact returned.trace
  · simp [exchange_no_release]
  · simp [exchange_count_assert]

/-- Settles O47: the flags of either result. -/
theorem writeRecordsOnlyWriteFlags : Obligations.WriteRecordsOnlyWriteFlags := by
  unfold Obligations.WriteRecordsOnlyWriteFlags
  intro s t sector dbg rest h
  obtain ⟨more, returned⟩ := exec_write_returns sector dbg rest h
  obtain ⟨capClass, legacy, capacity, ok⟩ := returned.dev
  refine ⟨capClass, legacy, capacity, ok, ?_⟩
  obtain ⟨-, -, same⟩ | ⟨-, -, e, kind, flags⟩ := returned.result
  · exact ⟨fun d _ => same d, fun d set => (same d).trans set⟩
  · refine ⟨fun d other => (flags d).trans ?_, fun d set => (flags d).trans (Bool.or_eq_true_iff.mpr (.inl set))⟩
    have ne : d ≠ e := by
      rintro rfl
      simp [kind] at other
    rw [decide_eq_false ne]
    exact Bool.or_false _

/-- Settles O48: the two results. -/
theorem theResultOfAWrite : Obligations.TheResultOfAWrite := by
  unfold Obligations.TheResultOfAWrite
  intro s t sector dbg rest h
  obtain ⟨more, returned⟩ := exec_write_returns sector dbg rest h
  obtain ⟨resOk, nextAddr, same⟩ | ⟨resOk, nextAddr, e, kind, flags⟩ := returned.result
  · exact ⟨fun _ => ⟨nextAddr, same⟩, by simp [resOk]⟩
  · refine ⟨by simp [resOk], fun _ => ⟨nextAddr, e, kind, ?_, fun d ne => (flags d).trans ?_⟩⟩
    · rw [flags e, decide_eq_true rfl, Bool.or_true]
    · rw [decide_eq_false ne]
      exact Bool.or_false _

end Sys2Proof.Machine
end

section
/-! SUPPORT. The busy polls of a device that ends its busy time (R206). -/

namespace Sys2Proof.Machine

/-- After `z` busy bytes the loop goes on from the poll that ended the busy time, with `z` attempts counted. -/
theorem busyPolls_of_ended (onGood : State → State) (z : Nat) {k : Nat} {o u : State} {l : List Byte} (h : Sent o u l)
    (inTime : z < k) (busy : ∀ j, j < z → o.env.xfer.nth (l.length + j) = 0x00)
    (ended : o.env.xfer.nth (l.length + z) ≠ 0x00) :
    ∃ v, Sent o v (l ++ List.replicate (z + 1) o.cfg.filler) ∧ v.cnt = u.cnt - BitVec.ofNat 16 z ∧
      attempts .writeTimeout State.pollByte (fun t => busyEnded t.b) onGood id k u = onGood v := by
  induction z generalizing k u l with
  | zero =>
    obtain ⟨k, rfl⟩ : ∃ m, k = m + 1 := ⟨k - 1, by omega⟩
    have idle : busyEnded u.pollByte.b = true := by
      rw [busyEnded_iff, h.polledByte]
      exact ended
    exact ⟨u.pollByte, h.pollByte, (BitVec.sub_zero _).symm, if_pos idle⟩
  | succ z ih =>
    obtain ⟨k, rfl⟩ : ∃ m, k = m + 2 := ⟨k - 2, by omega⟩
    have stillBusy : ¬ busyEnded u.pollByte.b = true := by
      rw [busyEnded_iff, h.polledByte, not_not]
      exact busy 0 (by omega)
    have place (j : Nat) : (l ++ [o.cfg.filler]).length + j = l.length + (j + 1) := by
      rw [List.length_append, List.length_singleton, Nat.add_assoc, Nat.add_comm 1 j]
    obtain ⟨v, sent, cnt, goesOn⟩ := ih (k := k + 1) (h.pollByte.setCnt (u.cnt - 1)) (by omega)
      (fun j hj => by rw [place]; exact busy (j + 1) (by omega)) (by rw [place]; exact ended)
    refine ⟨v, ?_, ?_, ?_⟩
    · rw [List.append_assoc, List.singleton_append, ← List.replicate_succ] at sent
      exact sent
    · rw [cnt, State.setCnt_cnt, BitVec.ofNat_add]
      bv_omega
    · rw [attempts, if_neg stillBusy, if_neg (Nat.succ_ne_zero k)]
      exact goesOn

section Accepted
variable {s : State}

theorem writeData_of_accepted (accepted : isAccepted s.cfg s.r1 s.answered = true) :
    writeData s = writeResponse (sendBlock s) :=
  if_neg (by simp [accepted])

theorem writeResponse_of_accepted (accepted : dataAccepted s.cfg s.b = true) : writeResponse s = awaitBusy s :=
  if_neg (by simp [accepted])

end Accepted

/-- R206, R207: the end of a write whose device is busy for `z` polls. -/
theorem awaitBusy_of_ended {o u : State} {l : List Byte} {z : Nat} (h : Sent o u l)
    (inTime : z < attemptsLeft o.cfg.writeBusyRetry) (busy : ∀ j, j < z → o.env.xfer.nth (l.length + j) = 0x00)
    (ended : o.env.xfer.nth (l.length + z) ≠ 0x00) :
    ∃ v, Sent o v (l ++ List.replicate (z + 1 + 1) o.cfg.filler) ∧
      awaitBusy u = returnWrite (v.setTimeoutCount (o.cfg.writeBusyRetry - BitVec.ofNat 16 z)).releaseBus := by
  rw [← h.cfg] at inTime
  obtain ⟨v, sent, cnt, goesOn⟩ := busyPolls_of_ended
    (fun t => returnWrite ((t.setTimeoutCount t.cnt).xfer t.cfg.filler).releaseBus) z (h.setCnt u.cfg.writeBusyRetry)
    inTime busy ended
  rw [State.setCnt_cnt, h.cfg] at cnt
  refine ⟨v.xfer v.cfg.filler, ?_, ?_⟩
  · rw [List.replicate_succ', ← List.append_assoc]
    exact sent.filler
  · rw [← cnt]
    exact goesOn

/-- A write whose command is accepted at poll `k`, counted from 0, whose data response is accepted, and whose device is
then busy for `z` polls. -/
theorem writeBlock_of_accepted {s : State} (sector : Word32) {k z : Nat} (inTime : k < s.cfg.cmdRetry.toNat)
    (before : ∀ j, j < k → s.env.xfer.nth (6 + j) = s.cfg.filler) (token : s.env.xfer.nth (6 + k) = s.cfg.r1Accepted)
    (distinct : s.cfg.r1Accepted ≠ s.cfg.filler)
    (response : dataAccepted s.cfg (s.env.xfer.nth (k + s.cfg.blockBytes + 10)) = true)
    (busyInTime : z < attemptsLeft s.cfg.writeBusyRetry)
    (busy : ∀ j, j < z → s.env.xfer.nth (k + s.cfg.blockBytes + 11 + j) = 0x00)
    (ended : s.env.xfer.nth (k + s.cfg.blockBytes + 11 + z) ≠ 0x00) :
    ∃ u, Sent (s.writeOpened sector) u (s.writeFrame sector ++ List.replicate (k + 1) s.cfg.filler ++
        (s.writeOpened sector).block ++ List.replicate (z + 1 + 1) s.cfg.filler) ∧
      writeBlock sector s =
        returnWrite (u.setTimeoutCount (s.cfg.writeBusyRetry - BitVec.ofNat 16 z)).releaseBus := by
  let called := s.writeCalled sector (.atPoll s.env.xfer extraMinusOne k)
  have sent : Sent (s.writeOpened sector) called (s.writeFrame sector ++ List.replicate (k + 1) s.cfg.filler) :=
    writeCalled_sent s sector _
  have length : (s.writeFrame sector ++ List.replicate (k + 1) s.cfg.filler).length = k + 7 := by
    rw [List.length_append, List.length_replicate, State.writeFrame, buildFrame_length]
    omega
  have lengthBlock : (s.writeFrame sector ++ List.replicate (k + 1) s.cfg.filler ++
      (s.writeOpened sector).block).length = k + s.cfg.blockBytes + 11 := by
    rw [List.length_append, length, State.block_length, State.writeOpened, openFrame_cfg, State.setSector_cfg]
    omega
  have dataResponse : (sendBlock called).b = s.env.xfer.nth (k + s.cfg.blockBytes + 10) := by
    rw [sent.dataResponse, length, State.writeOpened, openFrame_cfg, openFrame_env, State.setSector_cfg,
      State.setSector_env, show k + 7 + s.cfg.blockBytes + 3 = k + s.cfg.blockBytes + 10 by omega]
  have accepted : dataAccepted (sendBlock called).cfg (sendBlock called).b = true := by
    rw [dataResponse, sent.sendBlock.cfg]
    exact response
  obtain ⟨u, sent', returned⟩ := awaitBusy_of_ended (z := z) sent.sendBlock busyInTime
    (by rw [lengthBlock]; exact busy) (by rw [lengthBlock]; exact ended)
  refine ⟨u, sent', ?_⟩
  calc writeBlock sector s
    _ = writeData called := writeBlock_of_token sector inTime before (token ▸ distinct)
    _ = writeResponse (sendBlock called) := writeData_of_accepted ((isAccepted_iff _ _ _).mpr ⟨rfl, token⟩)
    _ = awaitBusy (sendBlock called) := writeResponse_of_accepted accepted
    _ = _ := returned

/-- The bytes of an accepted write under the standard configuration. -/
theorem writeBytes_standard {s : State} (sector : Word32) (k z : Nat) (standard : s.cfg = Config.standard) :
    s.writeFrame sector ++ List.replicate (k + 1) s.cfg.filler ++ (s.writeOpened sector).block ++
        List.replicate (z + 1 + 1) s.cfg.filler =
      (buildFrame s.cfg 24 (writeArg s.dev.capClass.isHigh sector)).toList ++ List.replicate (k + 1) 0xFF ++ [0xFE] ++
        (List.range 512).map (fun i => memRead s (BitVec.ofNat 9 i)) ++ List.replicate (2 + 1 + (z + 1) + 1) 0xFF := by
  have opened : (s.writeOpened sector).cfg = Config.standard := standard
  have fillers : List.replicate (2 + 1 + (z + 1) + 1) (0xFF : Byte) =
      List.replicate 3 0xFF ++ List.replicate (z + 1 + 1) 0xFF := by
    rw [List.replicate_append_replicate]
    congr 1
  rw [State.writeFrame, State.block, State.payload, opened, standard, fillers, List.range_eq_range']
  simp only [List.append_assoc]
  rfl

end Sys2Proof.Machine
end

section
/-! PROOF. A rejected write command, and an accepted write. -/

namespace Sys2Proof.Machine

/-- Settles O43: in either case the reply is one that is not accepted, and the fault follows it. -/
theorem aRejectedWriteCommandSendsNoData : Obligations.ARejectedWriteCommandSendsNoData := by
  unfold Obligations.ARejectedWriteCommandSendsNoData
  intro s sector dbg polls rest rejected
  let begun := s.startOp 0b11 dbg
  have reply : ∃ r : Reply, r.fillers = polls ∧ isAccepted s.cfg r.r1 r.answered = false ∧
      writeBlock sector begun = writeData (begun.writeCalled sector r) := by
    obtain ⟨k, rfl, inTime, before, token, other⟩ | ⟨rfl, silent⟩ := rejected
    · refine ⟨.atPoll s.env.xfer extraMinusOne k, rfl, ?_, writeBlock_of_token sector inTime before token⟩
      rw [← Bool.not_eq_true, isAccepted_iff]
      exact fun accepted => other accepted.2
    · exact ⟨.silent s.cfg, rfl, rfl, writeBlock_of_silent sector silent⟩
  obtain ⟨r, rfl, notAccepted, called⟩ := reply
  have faulted : writeBlock sector begun = takeFault .writeCmdRejected (begun.writeCalled sector r) := by
    rw [called, writeData]
    exact if_pos (by rw [Bool.not_eq_true']; exact notAccepted)
  have returned : WriteReturn (begun.writeOpened sector) _ (takeFault .writeCmdRejected (begun.writeCalled sector r)) :=
    .faulted .writeCmdRejected rfl (writeCalled_sent begun sector r)
  exact ⟨_, (writeIsWriteBlock s sector dbg rest).trans (congrArg _ faulted), rfl, rfl, returned.busAsserted, rfl,
    returned.events⟩

/-- Settles O44: the accepted write of the standard configuration. -/
theorem anAcceptedWrite : Obligations.AnAcceptedWrite := by
  unfold Obligations.AnAcceptedWrite
  intro s sector dbg k z rest standard inTime busyInTime before token response busy ended
  let begun := s.startOp 0b11 dbg
  have cfg : begun.cfg = Config.standard := standard
  have place (n : Nat) : k + begun.cfg.blockBytes + n = 512 + n + k := by
    rw [cfg, Nat.add_assoc, Nat.add_comm k]
    rfl
  have accepted : dataAccepted begun.cfg (begun.env.xfer.nth (k + begun.cfg.blockBytes + 10)) = true := by
    rw [place, cfg]
    exact beq_iff_eq.mpr response
  obtain ⟨u, sent, written⟩ := writeBlock_of_accepted (s := begun) sector (k := k) (z := z) (by rw [cfg]; exact inTime)
    (by rw [cfg]; exact before) (by rw [cfg]; exact token) (by rw [cfg]; decide) accepted
    (by rw [cfg]; exact busyInTime) (by rw [place]; exact busy) (by rw [place]; exact ended)
  have returned := WriteReturn.written (begun.cfg.writeBusyRetry - BitVec.ofNat 16 z) sent
  refine ⟨_, (writeIsWriteBlock s sector dbg rest).trans (congrArg _ written), rfl, congrArg (· + 1) sent.sector, rfl,
    returned.busAsserted, ?_, ?_⟩
  · rw [cfg]
    exact congrArg (fun d : DeviceHandle => d.withStatus (d.status.withTimeoutCount _)) sent.dev
  · rw [returned.events, writeBytes_standard sector k z cfg]
    rfl

end Sys2Proof.Machine
end

section
/-! SUPPORT. How a step can stop (R89, R237): no instruction stops, and an input stops only as a start with a word that
does not decode. -/

namespace Sys2Proof.Machine

/-- R237: the faults of the hardware are flags, so every instruction answers a next state. -/
theorem exec_completes (i : Instr) (s : State) : ∃ t, exec i s = .next t := by cases i <;> exact ⟨_, rfl⟩

/-- An operation word always decodes; only a frame word has constant bits to get wrong (R80, R89). -/
theorem decode_error_frame {w : PortWord} {e : DecodeError} (h : decode w = .error e) : ∃ v, w = .frame v := by
  cases w with
  | frame v => exact ⟨v, rfl⟩
  | hostop v => cases h

theorem hostInput_completes_or_refuses (e : HostEvent) (s : State) :
    (∃ t, hostInput e s = .next t) ∨ ∃ w d, e = .start w ∧ s.busy = false ∧ decode w = .error d ∧
      hostInput e s = .refused (refusalOf d) := by
  cases e with
  | reset => exact .inl ⟨_, rfl⟩
  | poke i b => exact .inl ⟨_, rfl⟩
  | start w =>
    simp only [hostInput, hostStart]
    cases busy : s.busy with
    | true => exact .inl ⟨s, if_pos rfl⟩
    | false =>
      cases decoded : decode w with
      | ok i => exact .inl (exec_completes i s)
      | error d => exact .inr ⟨w, d, rfl, rfl, decoded, rfl⟩

/-- An idle block without inputs and an operation in progress go on; otherwise the next input decides. -/
theorem step_completes_or_refuses (s : State) :
    (∃ t, step s = .next t) ∨ ∃ n w rest d, s.inputs = ⟨n, .start w⟩ :: rest ∧ s.st = .idle ∧ decode w = .error d ∧
      step s = .refused (refusalOf d) := by
  cases inputs : s.inputs with
  | nil => exact .inl ⟨_, by simp only [step, hostStep, inputs]; rfl⟩
  | cons a rest =>
    by_cases far : s.busy = true ∧ a.after ≠ 0
    · exact .inl ⟨runOn { s with done := false }, by simp only [step, hostStep, inputs]; exact if_pos far⟩
    · have landed : step s = hostInput a.event { s with done := false, inputs := rest } := by
        simp only [step, hostStep, inputs]
        exact if_neg far
      rw [landed]
      refine (hostInput_completes_or_refuses a.event _).imp_right ?_
      rintro ⟨w, d, start, idle, malformed, refused⟩
      exact ⟨a.after, w, rest, d, by rw [← start], (State.busy_eq_false_iff s).mp idle, malformed, refused⟩

end Sys2Proof.Machine
end

section
/-! SUPPORT. The fault flags along a run (R24, R227): no step of the block clears one, and of the starts only that of
`INIT` does. -/

namespace Sys2Proof.Machine

/-- R227: a step of an operation writes the diagnostic counter, `ok`, or one more flag. -/
theorem TickEffect.flag_stays {p : Phase} {s t : State} {e : FaultFlag} (effect : TickEffect p s t)
    (set : s.dev.status.flag e = true) : t.dev.status.flag e = true := by
  cases effect with
  | goesOn _ _ _ status =>
    obtain ⟨c, status⟩ := status
    rw [status, StatusRecord.withTimeoutCount_flag, set]
  | returns _ _ _ _ status => rw [status, set]
  | faults d _ _ dev => simp [faultStatus_flag, dev, set]
  | stops _ _ _ status => rw [returnInit_eq, State.finish_dev, status, set]
  | ready => simp [markReady, set]

theorem runOn_flag_stays {s : State} {e : FaultFlag} (set : s.dev.status.flag e = true) :
    (runOn s).dev.status.flag e = true :=
  runFor_keeps (P := fun u => u.dev.status.flag e = true) (fun _ busy h => (tick_effect busy).flag_stays h)
    (runLength s) set

/-- R24: `CMD`, `WRITE` and a refused start keep the record they find. -/
theorem exec_flag_stays {i : Instr} {s t : State} {e : FaultFlag} (h : exec i s = .next t)
    (notInit : ∀ dbg, i ≠ .init dbg) (set : s.dev.status.flag e = true) : t.dev.status.flag e = true := by
  cases exec_effect h with
  | unchanged => exact set
  | refused => exact set
  | cmd _ idx arg extra dbg => exact runOn_flag_stays (s := startCmd idx arg extra dbg s) set
  | init _ dbg => exact absurd rfl (notInit dbg)
  | write _ sector dbg => exact runOn_flag_stays (s := startWrite sector dbg s) set

/-- R227, of an input that has landed. -/
theorem hostInput_flag_cleared {a : HostEvent} {s t : State} {e : FaultFlag} (h : hostInput a s = .next t)
    (set : s.dev.status.flag e = true) (clear : t.dev.status.flag e = false) :
    a = .reset ∨ s.st = .idle ∧ ∃ w dbg, a = .start w ∧ decode w = .ok (.init dbg) := by
  have kept (stays : t.dev.status.flag e = true) : False := by simp [clear] at stays
  obtain ⟨reset, -⟩ | ⟨i, b, -, rfl⟩ | ⟨w, -, -, rfl⟩ | ⟨w, i, start, idle, decoded, ran⟩ := hostInput_cases h
  · exact .inl reset
  · exact (kept set).elim
  · exact (kept set).elim
  · by_cases init : ∃ dbg, i = .init dbg
    · obtain ⟨dbg, rfl⟩ := init
      exact .inr ⟨(State.busy_eq_false_iff s).mp idle, w, dbg, start, decoded⟩
    · exact (kept (exec_flag_stays ran (fun dbg same => init ⟨dbg, same⟩) set)).elim

end Sys2Proof.Machine
end

section
/-! SUPPORT. `INIT` with a device that is sensed present and unprotected, and that then never answers (R143, R144,
R145, R222). -/

namespace Sys2Proof.Machine

/-- R144: the state after the rate, the priming bytes and the `Assert()` of step 3. -/
def State.primed (s : State) : State :=
  ((s.setRate .slow).afterSending (List.replicate s.cfg.primeBytes s.cfg.filler)).assertBus

section Primed
variable (s : State)

theorem negotiatePrime_eq : negotiatePrime s = negotiateIdle s.primed := by
  rw [negotiatePrime, sendAll_eq, State.primed]

theorem State.primed_cfg : s.primed.cfg = s.cfg := rfl
theorem State.primed_xfer : s.primed.env.xfer = s.env.xfer.skip s.cfg.primeBytes := by
  simp [State.primed]

theorem State.primed_trace_length : s.primed.trace.length = s.trace.length + s.cfg.primeBytes + 2 := by
  simp [State.primed, State.afterSending]
  omega

/-- Step 3 is two events and the priming; an unanswered call with `extra = 0` is nine and its polls (R114). -/
theorem State.primed_silent_trace_length (idx : BitVec 6) (arg : Word32) :
    (s.primed.afterCall idx arg 0 (.silent s.cfg)).trace.length =
      s.trace.length + (11 + s.cfg.primeBytes + s.cfg.cmdRetry.toNat) := by
  have polls : (Reply.silent s.cfg).fillers = s.cfg.cmdRetry.toNat := rfl
  have nonnegative : ¬ extraNegative 0 := by decide
  rw [State.afterCall_trace_length, State.primed_trace_length, if_neg nonnegative, polls]
  omega

end Primed

section Silent
variable {s : State}

/-- R143: a device that is present and unprotected is primed. -/
theorem negotiate_of_unlocked (present : s.env.present.nth 0 = true) (unlocked : s.env.writeProt.nth 0 = false) :
    negotiate s = negotiatePrime s.powerCycled.sensePresent.senseWriteProt := by
  have sensed : s.powerCycled.presentBit = true := (Answers.peek_eq _).trans present
  have sensed' : s.powerCycled.sensePresent.writeProtBit = false := (Answers.peek_eq _).trans unlocked
  rw [negotiate_eq, negotiateSense, sensed, sensed']
  exact (if_neg nofun).trans (if_neg nofun)

/-- R145, R222: `GO_IDLE_STATE` without an answer. -/
theorem negotiateIdle_of_silent (silent : ∀ k, s.env.xfer.nth k = s.cfg.filler) :
    negotiateIdle s = takeFault .idleFailed (s.afterCall s.cfg.idxGoIdleState 0 0 (.silent s.cfg)) := by
  rw [negotiateIdle, transmit_of_silent _ _ _ fun j _ => silent (6 + j)]
  exact if_neg nofun

/-- Steps 3 and 4 with a silent device. -/
theorem negotiatePrime_of_silent (silent : ∀ k, s.env.xfer.nth k = s.cfg.filler) :
    negotiatePrime s =
      takeFault .idleFailed (s.primed.afterCall s.cfg.idxGoIdleState 0 0 (.silent s.cfg)) := by
  have later (k : Nat) : s.primed.env.xfer.nth k = s.primed.cfg.filler := by
    rw [State.primed_xfer, Answers.nth_skip, silent, State.primed_cfg]
  rw [negotiatePrime_eq, negotiateIdle_of_silent later, State.primed_cfg]

end Silent

end Sys2Proof.Machine
end

section
/-! SUPPORT. The kinds of faults as R225 lists them, and the bits of `status_word` (R24). -/

namespace Sys2Proof.Machine

section Kinds
variable (e : FaultFlag)

theorem FaultFlag.isExhaustion_iff :
    e.isExhaustion = true ↔ e ∈ [.opcondTimeout, .csdTimeout, .csdTokenMissing, .writeTimeout] := by
  cases e <;> decide

theorem FaultFlag.releasesBus_iff :
    e.releasesBus = true ↔
      e ∈ [.csdTimeout, .csdTokenMissing, .writeCmdRejected, .writeDataRejected, .writeTimeout] := by
  cases e <;> decide

theorem FaultFlag.isWriteFault_iff :
    e.isWriteFault = true ↔ e ∈ [.writeCmdRejected, .writeDataRejected, .writeTimeout] := by
  cases e <;> decide

end Kinds

/-- To append a flag is to write it below the bits so far: it is bit 0, and they move up by one. -/
theorem append_ofBool_eq_concat {n : Nat} (x : BitVec n) (b : Bool) : x ++ BitVec.ofBool b = x.concat b := rfl

end Sys2Proof.Machine
end

section
/-! PROOF. Faults. -/

namespace Sys2Proof.Machine

/-- Settles O13: a step completes or refuses a word that does not decode, and that is a frame word. -/
theorem aStepStopsOnlyOnAMalformedFrame : Obligations.AStepStopsOnlyOnAMalformedFrame := by
  unfold Obligations.AStepStopsOnlyOnAMalformedFrame
  intro s
  obtain ⟨t, completes⟩ | ⟨n, w, rest, d, inputs, idle, malformed, refused⟩ := step_completes_or_refuses s
  · rw [completes]
    exact ⟨nofun, nofun⟩
  · obtain ⟨v, rfl⟩ := decode_error_frame malformed
    rw [refused]
    exact ⟨nofun, fun _ _ => ⟨idle, n, v, rest, d, inputs, malformed⟩⟩

/-- Settles O26: the power cycle and the two senses are six events, and the rest is steps 3 and 4 with a silent
device. -/
theorem aSilentDeviceEndsInitWithIdleFailed : Obligations.ASilentDeviceEndsInitWithIdleFailed := by
  unfold Obligations.ASilentDeviceEndsInitWithIdleFailed
  intro s dbg rest present unlocked silent
  let begun := s.startOp 0b10 dbg
  let sensed := begun.powerCycled.sensePresent.senseWriteProt
  have silent' : ∀ k, sensed.env.xfer.nth k = sensed.cfg.filler := silent
  have length : sensed.trace.length = s.trace.length + 6 := by
    rw [State.senseWriteProt_trace, powerCycled_trace]
    rfl
  let called := sensed.primed.afterCall sensed.cfg.idxGoIdleState 0 0 (.silent sensed.cfg)
  have events : called.trace.length = s.trace.length + 6 + (11 + s.cfg.primeBytes + s.cfg.cmdRetry.toNat) := by
    rw [← length]
    exact State.primed_silent_trace_length sensed _ _
  have returned : negotiate begun = takeFault .idleFailed called :=
    (negotiate_of_unlocked (s := begun) present unlocked).trans (negotiatePrime_of_silent silent')
  refine ⟨_, (initIsNegotiate s dbg rest).trans (congrArg _ returned), rfl, rfl, rfl, ?_⟩
  have atFault : (takeFault .idleFailed called).trace = called.trace := rfl
  rw [atFault, events]
  omega

/-- Settles O52: what clears a flag is an input that lands, and of these a reset or the start of `INIT`. -/
theorem flagsStayUntilInitOrReset : Obligations.FlagsStayUntilInitOrReset := by
  unfold Obligations.FlagsStayUntilInitOrReset
  intro s t e h set clear
  obtain ⟨-, -, rfl⟩ | ⟨-, -, rfl⟩ | ⟨a, rest, inputs, -, landed⟩ := step_cases h
  · simp [set] at clear
  · simp [runOn_flag_stays (s := { s with done := false }) set] at clear
  · exact ⟨a, rest, inputs, hostInput_flag_cleared (s := { s with done := false, inputs := rest }) landed set clear⟩

/-- Settles O50, field by field; the kinds of faults are the lists of R225. -/
theorem whatAFaultDoes : Obligations.WhatAFaultDoes := by
  unfold Obligations.WhatAFaultDoes
  intro s e
  have flag (d : FaultFlag) : (takeFault e s).dev.status.flag d = (s.dev.status.flag d || decide (d = e)) :=
    faultStatus_flag e d s.dev.status
  simp only [← FaultFlag.isExhaustion_iff, ← FaultFlag.releasesBus_iff, ← FaultFlag.isWriteFault_iff]
  refine ⟨?_, fun d other => ?_, StatusRecord.raise_ok _ e, rfl, rfl, ?_, rfl, rfl, rfl, rfl, _, _, _, _, rfl⟩
  · rw [flag, decide_eq_true rfl, Bool.or_true]
  · rw [flag, decide_eq_false other, Bool.or_false]
  · rw [takeFault_busAsserted]
    cases e.releasesBus with
    | true => exact Bool.and_false _
    | false => exact Bool.and_true _

/-- Settles O51: the word is the concatenation of the flags, the flag of code 0 last. -/
theorem faultCodesAreBitPositions : Obligations.FaultCodesAreBitPositions := by
  unfold Obligations.FaultCodesAreBitPositions
  intro r
  refine ⟨fun e => ?_, ?_⟩
  · cases e <;> simp only [StatusRecord.word, FaultFlag.code, StatusRecord.flag, append_ofBool_eq_concat,
      BitVec.getLsbD_concat_zero, BitVec.getLsbD_concat_succ]
  · simp only [StatusRecord.word, append_ofBool_eq_concat, BitVec.getLsbD_concat_succ]
    exact ofBool_bit r.ok

end Sys2Proof.Machine
end

section
/-! SUPPORT. A block that waits (R250), and a busy block at a start (R89, R254). -/

namespace Sys2Proof.Machine

/-- R250: without inputs an idle block does nothing; an earlier `done` pulse is over (R30). -/
theorem step_of_rest {s : State} (rest : s.AtRest) : step s = .next { s with done := false } := by
  simp [step, hostStep, State.busy, rest.idle, rest.undisturbed]

/-- R254: a busy block does not even decode the word of a start. -/
theorem hostStart_of_busy {s : State} (busy : s.busy = true) (w : PortWord) : hostStart w s = .next s := if_pos busy

/-- R89, R254: of what an instruction can do, a refusal and the start of an operation need an idle block. -/
theorem exec_of_busy {s : State} (busy : s.busy = true) (i : Instr) : exec i s = .next s := by
  obtain ⟨t, completes⟩ := exec_completes i s
  cases exec_effect completes with
  | unchanged => exact completes
  | refused idle | cmd idle | init idle | write idle => exact absurd busy (Bool.eq_false_iff.mp idle)

end Sys2Proof.Machine
end

section
/-! PROOF. An idle block waits, and a busy one ignores starts. -/

namespace Sys2Proof.Machine

/-- Settles O8: the start pulse lands at once and meets the busy block, the `done` pulse over and the input taken. -/
theorem anIdleBlockWaitsAndABusyOneIgnoresStarts : Obligations.AnIdleBlockWaitsAndABusyOneIgnoresStarts := by
  unfold Obligations.AnIdleBlockWaitsAndABusyOneIgnoresStarts
  refine ⟨fun s rest => step_of_rest rest, fun s w rest busy input => ?_, fun i s busy => ?_⟩
  · rw [step_of_landed input]
    exact hostStart_of_busy (s := { s with done := false, inputs := rest }) ((State.busy_iff s).mpr busy) w
  · exact exec_of_busy ((State.busy_iff s).mpr busy) i

end Sys2Proof.Machine
end
